-- ==== Sys2Proof/Word.lean ====
section
/-! DEFINITION. The word types of the codec block (00_scope.md R9, 10_state.md R22 to R36): bits, bytes, channel words,
11-bit raw channels, and the fixed-length arrays the spec indexes. -/

namespace Sys2Proof

/-- A byte is 8 bits (00_scope.md R9). -/
abbrev Byte := BitVec 8

/-- A 16-bit channel word or PWM value (30_encoding.md R102, 40_sbus_decoder.md R126). -/
abbrev Word := BitVec 16

/-- An 11-bit raw SBUS channel, 0 to 2047 (00_scope.md R7). -/
abbrev Raw := BitVec 11

/-- The 25 bytes of an SBUS frame, byte 0 first on the wire (30_encoding.md R80, 20_memory.md R61). -/
abbrev Frame := Vector Byte 25

/-- The sixteen 16-bit channel words `w[0..15]` of a command (30_encoding.md R102). -/
abbrev Channels := Vector Word 16

/-- Sixteen raw channels `raw[0..15]` (40_sbus_decoder.md R124). -/
abbrev RawChannels := Vector Raw 16

end Sys2Proof
end

