-- ==== Sys2Proof/Syntax.lean ====
section
/-! DEFINITION. The fourteen commands of spec/opcode_table.json (30_encoding.md R104), one constructor per row, with the
operands of R102. -/

namespace Sys2Proof

/-- The commands of the codec block. Operands are the bytes and words R102 assembles; which of them are admitted is
`Instr.wellFormed` (R103). -/
inductive Instr where
  /-- RST: return every register to its reset value (44_control.md R220). -/
  | rst
  /-- STAT: respond with the status words (44_control.md R221). -/
  | stat
  /-- SRX: feed one received SBUS byte to the parser (40_sbus_decoder.md R121). -/
  | srx (b : Byte)
  /-- SPOLL: report the latest frame and clear `NEW` (40_sbus_decoder.md R127). -/
  | spoll
  /-- SENC: build an SBUS frame from raw channels (41_sbus_encoder.md R161). -/
  | senc (w : Channels) (fl : Byte)
  /-- SENCP: build an SBUS frame from PWM values (41_sbus_encoder.md R163). -/
  | sencp (w : Channels) (fl : Byte)
  /-- STX: transmit the SBUS front buffer (41_sbus_encoder.md R165). -/
  | stx
  /-- ERST: reset checksum, cursor and overflow (42_stuff_checksum.md R182). -/
  | erst
  /-- ERAW: emit one byte raw (42_stuff_checksum.md R183). -/
  | eraw (b : Byte)
  /-- EPUSH: push one byte (42_stuff_checksum.md R184). -/
  | epush (b : Byte)
  /-- ECHK: push the current checksum (42_stuff_checksum.md R185). -/
  | echk
  /-- ECMT: commit the back buffer (42_stuff_checksum.md R186). -/
  | ecmt
  /-- TENC: build and commit a trainer frame (43_trainer_encoder.md R201). -/
  | tenc (w : Channels)
  /-- TTX: send the trainer front buffer (43_trainer_encoder.md R202). -/
  | ttx
deriving DecidableEq, Repr

end Sys2Proof
end

