-- ==== Sys2Proof/WellFormed.lean ====
section
/-! DEFINITION. Which commands are admitted (30_encoding.md R103). -/

namespace Sys2Proof

/-- Every channel word lies in 0..2047, that is, bits 15:11 are zero (R103, SENC). -/
def rawWordsInRange (w : Channels) : Bool := w.toList.all fun x => decide (x.toNat ≤ 2047)

/-- Bits 7:4 of the flag byte are zero (R103, SENC and SENCP). -/
def flagByteInRange (fl : Byte) : Bool := fl.extractLsb' 4 4 == 0#4

/-- 30_encoding.md R103: the operand conditions of each command. SENCP and TENC accept every 16-bit word; every F0 and
F1 command is well-formed. -/
def Instr.wellFormed : Instr → Bool
  | .rst => true
  | .stat => true
  | .srx _ => true
  | .spoll => true
  | .senc w fl => rawWordsInRange w && flagByteInRange fl
  | .sencp _ fl => flagByteInRange fl
  | .stx => true
  | .erst => true
  | .eraw _ => true
  | .epush _ => true
  | .echk => true
  | .ecmt => true
  | .tenc _ => true
  | .ttx => true

end Sys2Proof
end

