-- ==== Sys2Proof/Decode.lean ====
section
/-! DEFINITION. The command encoding (30_encoding.md R100 to R106): the opcode map, the formats, the decoder (total on
every byte list, refusing by name) and the encoder. -/

namespace Sys2Proof

/-- The command formats of 30_encoding.md R101. -/
inductive Format where
  | f0 | f1 | fs | ft
deriving DecidableEq, Repr

/-- A format's length in bytes (R101, R106). -/
def Format.length : Format → Nat
  | .f0 => 1
  | .f1 => 2
  | .fs => 34
  | .ft => 33

/-- The assigned opcodes of 30_encoding.md R104, by mnemonic. -/
inductive Opcode where
  | rst | stat | srx | spoll | senc | sencp | stx | erst | eraw | epush | echk | ecmt | tenc | ttx
deriving DecidableEq, Repr

/-- The opcode byte of each mnemonic (R104). -/
def Opcode.byte : Opcode → Byte
  | .rst => 0x01
  | .stat => 0x02
  | .srx => 0x10
  | .spoll => 0x11
  | .senc => 0x20
  | .sencp => 0x21
  | .stx => 0x22
  | .erst => 0x30
  | .eraw => 0x31
  | .epush => 0x32
  | .echk => 0x33
  | .ecmt => 0x34
  | .tenc => 0x40
  | .ttx => 0x41

/-- The format of each mnemonic (R104). -/
def Opcode.format : Opcode → Format
  | .rst => .f0
  | .stat => .f0
  | .srx => .f1
  | .spoll => .f0
  | .senc => .fs
  | .sencp => .fs
  | .stx => .f0
  | .erst => .f0
  | .eraw => .f1
  | .epush => .f1
  | .echk => .f0
  | .ecmt => .f0
  | .tenc => .ft
  | .ttx => .f0

/-- The rows of R104, in the table's order. -/
def opcodeMap : List Opcode :=
  [.rst, .stat, .srx, .spoll, .senc, .sencp, .stx, .erst, .eraw, .epush, .echk, .ecmt, .tenc, .ttx]

/-- The row a first byte selects: the mask is 0xFF (R104); `none` for the 242 reserved values (R105). -/
def Opcode.ofByte (b : Byte) : Option Opcode := opcodeMap.find? fun o => o.byte == b

/-- The mnemonic of a command. -/
def Instr.opcode : Instr → Opcode
  | .rst => .rst
  | .stat => .stat
  | .srx _ => .srx
  | .spoll => .spoll
  | .senc _ _ => .senc
  | .sencp _ _ => .sencp
  | .stx => .stx
  | .erst => .erst
  | .eraw _ => .eraw
  | .epush _ => .epush
  | .echk => .echk
  | .ecmt => .ecmt
  | .tenc _ => .tenc
  | .ttx => .ttx

/-- A command's length in bytes, fixed by its opcode (R106). -/
def Instr.length (i : Instr) : Nat := i.opcode.format.length

/-- A 16-bit value as two bytes, low byte first (20_memory.md R64). -/
def le16 (w : Word) : List Byte := [w.extractLsb' 0 8, w.extractLsb' 8 8]

/-- A 32-bit value as four bytes, low byte first (30_encoding.md R107). -/
def le32 (w : BitVec 32) : List Byte :=
  [w.extractLsb' 0 8, w.extractLsb' 8 8, w.extractLsb' 16 8, w.extractLsb' 24 8]

/-- `byte(n)` of a command: byte offset `n` from its opcode byte (R101). The decoder reads it only below the command's
length. -/
def byteAt (bs : List Byte) (n : Nat) : Byte := bs.getD n 0

/-- Channel word `w[k] = byte(1+2k) | (byte(2+2k) << 8)` (R102). -/
def wordAt (bs : List Byte) (k : Nat) : Word := byteAt bs (2 + 2 * k) ++ byteAt bs (1 + 2 * k)

/-- The sixteen channel words of an FS or FT command (R102). -/
def channelsAt (bs : List Byte) : Channels := Vector.ofFn fun k : Fin 16 => wordAt bs k.val

/-- The command an opcode and its operand bytes spell (R101, R102). -/
def Opcode.assemble (o : Opcode) (bs : List Byte) : Instr :=
  match o with
  | .rst => .rst
  | .stat => .stat
  | .srx => .srx (byteAt bs 1)
  | .spoll => .spoll
  | .senc => .senc (channelsAt bs) (byteAt bs 33)
  | .sencp => .sencp (channelsAt bs) (byteAt bs 33)
  | .stx => .stx
  | .erst => .erst
  | .eraw => .eraw (byteAt bs 1)
  | .epush => .epush (byteAt bs 1)
  | .echk => .echk
  | .ecmt => .ecmt
  | .tenc => .tenc (channelsAt bs)
  | .ttx => .ttx

/-- Why the decoder reads no command at the head of a byte list (60_exceptions.md R233). -/
inductive DecodeError where
  /-- The list is empty: there is no command, and nothing is refused. -/
  | noCommand
  /-- The opcode is one of the 242 reserved values (R105). -/
  | reservedOpcode
  /-- The list ends before the command does (R106). -/
  | truncated
  /-- The operands do not meet R103. -/
  | illFormed
deriving DecidableEq, Repr

/-- The decoder: the command at the head of a byte list (R100 to R106). -/
def decode (bs : List Byte) : Except DecodeError Instr :=
  match bs with
  | [] => .error .noCommand
  | op :: _ =>
    match Opcode.ofByte op with
    | none => .error .reservedOpcode
    | some o =>
      if bs.length < o.format.length then .error .truncated
      else if (o.assemble bs).wellFormed then .ok (o.assemble bs)
      else .error .illFormed

/-- The operand bytes of sixteen channel words (R101, R102). -/
def channelBytes (w : Channels) : List Byte := w.toList.flatMap le16

/-- The encoder: the bytes of a command (R101, R102, R104). -/
def encode (i : Instr) : List Byte :=
  i.opcode.byte ::
    match i with
    | .rst => []
    | .stat => []
    | .srx b => [b]
    | .spoll => []
    | .senc w fl => channelBytes w ++ [fl]
    | .sencp w fl => channelBytes w ++ [fl]
    | .stx => []
    | .erst => []
    | .eraw b => [b]
    | .epush b => [b]
    | .echk => []
    | .ecmt => []
    | .tenc w => channelBytes w
    | .ttx => []

/-- The bytes of a table word: the low `nbits` bits of `w`, first byte the least significant, and zeros up to the longest
command (34 bytes). -/
def tableBytes (nbits w : Nat) : List Byte :=
  (List.range 34).map fun k => BitVec.ofNat 8 ((w % 2 ^ nbits) >>> (8 * k))

/-- The bytes of one table word as one command: as many as its opcode's format says, or the word's own bytes where the
opcode is reserved. -/
def tableCommand (nbits w : Nat) : List Byte :=
  match Opcode.ofByte (byteAt (tableBytes nbits w) 0) with
  | none => (tableBytes nbits w).take ((nbits + 7) / 8)
  | some o => (tableBytes nbits w).take o.format.length

/-- The command the decoder reads from a table word (`none` where it refuses). -/
def decodeTableWord (nbits w : Nat) : Option Instr :=
  match decode (tableCommand nbits w) with
  | .ok i => some i
  | .error _ => none

end Sys2Proof
end

