-- ==== Sys2Proof/Config.lean ====
section
/-! DEFINITION. The implementation parameters of 00_scope.md R8, and the free value a buffer that holds no value reads as.
The parameters are plain data that `State` carries unchanged for the life of a model instance (10_state.md R37;
log entry 1), so every statement over all states is a statement over all configurations. -/

namespace Sys2Proof

/-- The parameters the source names without giving values (00_scope.md R8). -/
structure Config where
  /-- `SCALE_NUM`: `SBUS_SCALE = SCALE_NUM / SCALE_DEN`. -/
  scaleNum : Nat
  /-- `SCALE_DEN`. -/
  scaleDen : Nat
  /-- `PPM_CENTER`, the PWM centre in microseconds. -/
  ppmCenter : Nat
  /-- `MIN_PWM`, the lower clamp bound in microseconds. -/
  minPwm : Nat
  /-- `MAX_PWM`, the upper clamp bound in microseconds. -/
  maxPwm : Nat
  /-- `LINE_MAX`, the capacity of the trainer output buffer in bytes. -/
  lineMax : Nat
deriving DecidableEq, Repr

/-- The constraints 00_scope.md R8 puts on the parameters. -/
abbrev Config.Valid (c : Config) : Prop :=
  1 ≤ c.scaleNum ∧ 1 ≤ c.scaleDen ∧ c.ppmCenter ≤ 65535 ∧
  c.minPwm ≤ c.maxPwm ∧ c.maxPwm ≤ 65535 ∧ 1 ≤ c.lineMax ∧ c.lineMax ≤ 65535

/-- `EXCFG`, the example configuration of 00_scope.md R8, "chosen for testing". `State.reset` carries it
(DESIGN CHOICE, unsafe: log entry 1); no statement rests on its values. -/
def Config.excfg : Config where
  scaleNum := 8
  scaleDen := 5
  ppmCenter := 1500
  minPwm := 988
  maxPwm := 2012
  lineMax := 32

/-- FREE VALUE: what byte `i` of a buffer that holds no value reads as. 10_state.md's opening: "No command can read such
a register until a write has given it one"; only states that no run reaches read it (log entry 3). -/
opaque Config.noValueByte : Nat → Byte

/-- FREE VALUE: what the RST command at byte offset `pos` of the CMD stream leaves in byte `i` of the buffers whose value
is "unspecified" after it (44_control.md R220; log entry 2). -/
opaque Config.unspecifiedByte : (pos i : Nat) → Byte

/-- A frame register that holds no value, read all the same: 25 free bytes (log entry 3). -/
def Config.noValueFrame : Frame := Vector.ofFn fun i : Fin 25 => Config.noValueByte i.val

end Sys2Proof
end

