-- ==== Sys2Proof/Machine/State.lean ====
section
/-! DEFINITION. The state of the codec block: every register and buffer of 10_state.md R22 to R35, the ports of
00_scope.md R6, and the parameters of R8; and the ways a step can stop. -/

namespace Sys2Proof.Machine

/-- `PSTATE` (10_state.md R22): `Seeking` is encoded 0, `Filling` 1. -/
inductive PState where
  | seeking
  | filling
deriving DecidableEq, Repr

/-- The two agents (60_exceptions.md R241): the host on CMD, the SBUS byte source on SBUS_RX. -/
inductive Agent where
  | host
  | sbusSource
deriving DecidableEq, Repr

/-- The block's state. Registers and buffers carry the spec's names; INVENTORY.md lists each with its rule. -/
structure State where
  /-- `PSTATE`, the parser state (R22). -/
  pstate : PState
  /-- `CNT`, 5 bits: bytes of the frame now being built (R23). -/
  cnt : BitVec 5
  /-- `PBUF[0..24]`, the frame under construction (R24). -/
  pbuf : Frame
  /-- `PREV`, the byte most recently received on SBUS_RX (R25). -/
  prev : Byte
  /-- `PREV_V`, set once any byte has been received since reset (R25). -/
  prevV : Bool
  /-- `LFRAME[0..24]`, the latest valid frame; `none` is the spec's "no value" (R26, log entry 3). -/
  lframe : Option Frame
  /-- `LVALID`, set once any valid frame has completed since reset (R27). -/
  lvalid : Bool
  /-- `NEW`, set when a valid frame completes, cleared by SPOLL (R28). -/
  new : Bool
  /-- `ERRCNT`, 16 bits, the framing-error counter (R29). -/
  errcnt : BitVec 16
  /-- `STXB[0..24]`, the SBUS front transmit buffer; `none` is "no value" (R30, log entry 3). -/
  stxb : Option Frame
  /-- `STXV`, marks that `STXB` holds a frame (R30). -/
  stxv : Bool
  /-- `CHK`, the running XOR checksum (R31). -/
  chk : Byte
  /-- `TBUF[0..LINE_MAX-1]`, the trainer back buffer (R32). -/
  tbuf : List Byte
  /-- `TLEN`, 16 bits, the output cursor (R33). -/
  tlen : BitVec 16
  /-- `TOVF`, the overflow status (R34). -/
  tovf : Bool
  /-- `TFRONT[0..LINE_MAX-1]`, the trainer front buffer; a byte that is `none` has no value (R35, log entry 3). -/
  tfront : List (Option Byte)
  /-- `TFLEN`, 16 bits, the front buffer's length (R35). -/
  tflen : BitVec 16
  /-- `TFV`, marks that `TFRONT` holds a frame (R35). -/
  tfv : Bool
  /-- SBUS_TX: the bytes sent, oldest first (00_scope.md R6, R11). -/
  sbusTx : List Byte
  /-- BLE_TX: the notifications sent, oldest first (00_scope.md R6, R11). -/
  bleTx : List (List Byte)
  /-- RSP: the responses given, oldest first (00_scope.md R6, R11). -/
  rsp : List (List Byte)
  /-- CMD: the delivered bytes the block has not yet accepted (30_encoding.md R100). -/
  cmdIn : List Byte
  /-- The byte offset in the CMD stream of the first byte of `cmdIn`, which a refusal reports (60_exceptions.md R233). -/
  cmdPos : Nat
  /-- SBUS_RX: the received bytes the block has not yet accepted (00_scope.md R6). -/
  sbusRx : List Byte
  /-- The interleaving, "the model's input" (93_implementation_defined.md I11): which agent each coming acceptance takes
  from; past its end, the host (log entry 5). -/
  acceptOrder : List Agent
  /-- The parameters of 00_scope.md R8, which no command changes (10_state.md R37, log entry 1). -/
  cfg : Config
deriving DecidableEq, Repr

/-- No fault exists: "No command of this spec has the outcome *fault*; no source names a condition that stops the block"
(00_scope.md R12). -/
inductive Fault where
deriving DecidableEq, Repr

/-- Why the block refuses a command stream (60_exceptions.md R233, `E_REFUSE`). `offset` is the byte offset of the refused
command's opcode in the CMD stream. A refused command has no effect. -/
inductive Refusal where
  /-- Raised by the dispatcher for an instruction that has no meaning yet (none is left). Safe: the machine stops. -/
  | notModelled (mnemonic : String)
  /-- Raised by the fetch on a reserved opcode (R105, R233 case 1). Safe: as the spec says. -/
  | reservedOpcode (offset : Nat)
  /-- Raised by the fetch, and by SENC and SENCP themselves, on operands outside R103 (R233 case 2). Safe: as the spec
  says. -/
  | illFormed (offset : Nat)
  /-- Raised by the fetch when the stream ends before the command does (R106, R233 case 3). Safe: as the spec says. -/
  | truncated (offset : Nat)
deriving DecidableEq, Repr

/-- The state after power-on reset with parameters `c` (70_reset_and_hazards.md R260, 10_state.md section 8). `PBUF` and
`TBUF` are "unspecified, not observable": zeros here (DESIGN CHOICE, log entry 2). -/
def State.resetWith (c : Config) : State where
  pstate := .seeking
  cnt := 0
  pbuf := Vector.replicate 25 0
  prev := 0x00
  prevV := false
  lframe := none
  lvalid := false
  new := false
  errcnt := 0
  stxb := none
  stxv := false
  chk := 0x00
  tbuf := List.replicate c.lineMax 0
  tlen := 0
  tovf := false
  tfront := List.replicate c.lineMax none
  tflen := 0
  tfv := false
  sbusTx := []
  bleTx := []
  rsp := []
  cmdIn := []
  cmdPos := 0
  sbusRx := []
  acceptOrder := []
  cfg := c

/-- The machine right after reset, in the configuration `EXCFG` (log entry 1). -/
def State.reset : State := State.resetWith Config.excfg

end Sys2Proof.Machine
end

