-- ==== Sys2Proof/Machine/Flags.lean ====
section
/-! DEFINITION. The predicates and status computations of the spec: header and footer (30_encoding.md R81,
40_sbus_decoder.md R120), frame start (R120), the stuffing test (R93), and the status words (44_control.md R222 to R224). -/

namespace Sys2Proof.Machine

/-- `HDR`, the SBUS header byte (00_scope.md R7). -/
def sbusHeader : Byte := 0x0F

/-- `FTR`, the footer the encoder emits (00_scope.md R7). -/
def sbusFooter : Byte := 0x00

/-- `SENT`, the trainer sentinel (00_scope.md R7). -/
def sentinel : Byte := 0x7E

/-- `ESC`, the trainer stuff-escape (00_scope.md R7). -/
def stuffEscape : Byte := 0x7D

/-- The stuff XOR mask (00_scope.md R7). -/
def stuffMask : Byte := 0x20

/-- `TTYPE`, the trainer frame type (00_scope.md R7). -/
def trainerType : Byte := 0x80

/-- `is_header(b) := (b = 0x0F)` (40_sbus_decoder.md R120). -/
def isHeader (b : Byte) : Bool := b == sbusHeader

/-- `is_footer(b) := (b = 0x00) or (b[3:0] = 0x4)` (30_encoding.md R81). -/
def isFooter (b : Byte) : Bool := b == 0x00 || b.extractLsb' 0 4 == 0x4

/-- Byte `b` starts a frame: `Seeking`, a header, and the byte before it is a valid footer (40_sbus_decoder.md R120). -/
def startsFrame (b : Byte) (s : State) : Bool :=
  s.pstate == .seeking && isHeader b && s.prevV && isFooter s.prev

/-- A payload byte that the stuffing rule escapes (30_encoding.md R93). -/
def needsStuffing (x : Byte) : Bool := x == sentinel || x == stuffEscape

/-- The encoding of `PSTATE`: `Seeking` 0, `Filling` 1 (10_state.md R22). -/
def PState.bit : PState → BitVec 1
  | .seeking => 0
  | .filling => 1

/-- A flag as one bit. -/
def flagBit (b : Bool) : BitVec 1 := BitVec.ofBool b

/-- A field of a status word, its lowest bit at bit `lo` (44_control.md R222 to R224). -/
def statusField {n : Nat} (v : BitVec n) (lo : Nat) : BitVec 32 := v.setWidth 32 <<< lo

/-- Status word `W0`: the parser and the flags (44_control.md R222); bits 15:12 are 0. -/
def statusW0 (s : State) : BitVec 32 :=
  statusField s.pstate.bit 0 ||| statusField s.cnt 1 ||| statusField (flagBit s.new) 6 |||
    statusField (flagBit s.lvalid) 7 ||| statusField (flagBit s.prevV) 8 ||| statusField (flagBit s.stxv) 9 |||
    statusField (flagBit s.tovf) 10 ||| statusField (flagBit s.tfv) 11 ||| statusField s.prev 16 |||
    statusField s.chk 24

/-- Status word `W1`: the counters (44_control.md R223). -/
def statusW1 (s : State) : BitVec 32 := statusField s.errcnt 0 ||| statusField s.tlen 16

/-- Status word `W2`: the trainer front-buffer length (44_control.md R224); bits 31:16 are 0. -/
def statusW2 (s : State) : BitVec 32 := statusField s.tflen 0

end Sys2Proof.Machine
end

