-- ==== Sys2Proof/Machine/Operands.lean ====
section
/-! DEFINITION. The operand forms and the pure functions on them: SBUS packing and unpacking (30_encoding.md R82, R83),
the PWM scalings (40_sbus_decoder.md R126, 41_sbus_encoder.md R162), pair packing (30_encoding.md R91) and byte-stuffing
(R93). -/

namespace Sys2Proof.Machine

/-- `floor_div(a, b)` for `b > 0`: the quotient rounded toward minus infinity (00_scope.md R10). -/
def floorDiv (a b : Int) : Int := Int.fdiv a b

/-- `clamp(lo, hi, v)` (00_scope.md R10). -/
def clamp (lo hi v : Int) : Int := if v < lo then lo else if hi < v then hi else v

/-- `SBUS_CENTER` (00_scope.md R7). -/
def sbusCenter : Int := 992

/-- Bit `p` of the 176-bit channel stream of a frame: bit `p mod 8` of byte `1 + floor(p/8)` (20_memory.md R62). -/
def streamBit (F : Frame) (p : Nat) : Bool :=
  if h : p < 176 then (F[1 + p / 8]'(by omega)).getLsbD (p % 8) else false

/-- Bit `p` of the channel stream that sixteen raw channels make: bit `p mod 11` of channel `floor(p/11)`
(20_memory.md R62, 41_sbus_encoder.md R160). -/
def packBit (raw : RawChannels) (p : Nat) : Bool :=
  if h : p < 176 then (raw[p / 11]'(by omega)).getLsbD (p % 11) else false

/-- `sbus_unpack(F)`: bit `j` of channel `i` is stream bit `11*i + j` (40_sbus_decoder.md R124). -/
def sbusUnpack (F : Frame) : RawChannels :=
  Vector.ofFn fun i : Fin 16 => BitVec.ofFnLE fun j : Fin 11 => streamBit F (11 * i.val + j.val)

/-- `sbus_flags(F)`: `F[23][3:0]`; bits 7:4 are ignored (40_sbus_decoder.md R125). -/
def sbusFlags (F : Frame) : BitVec 4 := F[23].extractLsb' 0 4

/-- Payload byte `k` of a packed frame, for `1 ≤ k ≤ 22`: bit `m` is stream bit `8*(k-1) + m` (41_sbus_encoder.md R160). -/
def packByte (raw : RawChannels) (k : Nat) : Byte :=
  BitVec.ofFnLE fun m : Fin 8 => packBit raw (8 * (k - 1) + m.val)

/-- `sbus_pack(raw, fl)` (41_sbus_encoder.md R160): header, 22 packed bytes, flag byte with bits 7:4 zero, footer. -/
def sbusPack (raw : RawChannels) (fl : BitVec 4) : Frame :=
  Vector.ofFn fun k : Fin 25 =>
    if k.val = 0 then sbusHeader
    else if k.val ≤ 22 then packByte raw k.val
    else if k.val = 23 then fl.setWidth 8
    else sbusFooter

/-- `to_pwm(raw)` before its 16-bit result is stored (40_sbus_decoder.md R126). -/
def toPwmValue (c : Config) (raw : Raw) : Int :=
  clamp c.minPwm c.maxPwm (c.ppmCenter + floorDiv ((raw.toNat - sbusCenter) * c.scaleDen) c.scaleNum)

/-- `to_pwm(raw)`: raw channel to PWM microseconds (40_sbus_decoder.md R126). -/
def toPwm (c : Config) (raw : Raw) : Word := BitVec.ofInt 16 (toPwmValue c raw)

/-- `to_raw(p)` before its 11-bit result is stored (41_sbus_encoder.md R162). -/
def toRawValue (c : Config) (p : Word) : Int :=
  clamp 0 2047 (sbusCenter + floorDiv ((p.toNat - c.ppmCenter) * c.scaleNum) c.scaleDen)

/-- `to_raw(p)`: PWM microseconds to raw channel (41_sbus_encoder.md R162). -/
def toRaw (c : Config) (p : Word) : Raw := BitVec.ofInt 11 (toRawValue c p)

/-- `PWM_OUT[0..15]` of sixteen raw channels (10_state.md R36). -/
def pwmChannels (c : Config) (raw : RawChannels) : Channels :=
  Vector.ofFn fun i : Fin 16 => toPwm c raw[i]

/-- SENC's channel operands: bits 10:0 of each word (41_sbus_encoder.md R161; R103 has checked bits 15:11). -/
def rawOperands (w : Channels) : RawChannels := Vector.ofFn fun i : Fin 16 => w[i].setWidth 11

/-- SENCP's channel operands: each PWM word scaled to raw (41_sbus_encoder.md R163). -/
def pwmOperands (c : Config) (w : Channels) : RawChannels := Vector.ofFn fun i : Fin 16 => toRaw c w[i]

/-- The flag operand `fl[3:0]` (41_sbus_encoder.md R161, R163). -/
def flagOperand (fl : Byte) : BitVec 4 := fl.extractLsb' 0 4

/-- `pack3(c0, c1)`: the three payload bytes of a channel pair (43_trainer_encoder.md R200, 30_encoding.md R91). -/
def pack3 (c0 c1 : Word) : List Byte :=
  [(c0 &&& 0x00FF#16).setWidth 8,
   (((c0 &&& 0x0F00#16) >>> 4) ||| ((c1 &&& 0x00F0#16) >>> 4)).setWidth 8,
   (((c1 &&& 0x000F#16) <<< 4) ||| ((c1 &&& 0x0F00#16) >>> 8)).setWidth 8]

/-- The 24 packed bytes of sixteen channel words: the 8 pairs in order (43_trainer_encoder.md R201 step 4). -/
def packedPairs (w : Channels) : List Byte :=
  pack3 w[0] w[1] ++ pack3 w[2] w[3] ++ pack3 w[4] w[5] ++ pack3 w[6] w[7] ++
    pack3 w[8] w[9] ++ pack3 w[10] w[11] ++ pack3 w[12] w[13] ++ pack3 w[14] w[15]

/-- The stuffing rule: `0x7D, x ^ 0x20` for 0x7E and 0x7D, `x` itself otherwise (30_encoding.md R93). -/
def stuff (x : Byte) : List Byte := if needsStuffing x then [stuffEscape, x ^^^ stuffMask] else [x]

end Sys2Proof.Machine
end

