-- ==== Sys2Proof/Machine/Ops.lean ====
section
/-! DEFINITION. The named operations on the block's registers, buffers and ports that the commands share: the output
primitives (00_scope.md R11), reset (44_control.md R220), the parser's moves (40_sbus_decoder.md R121), and the engine's
`Emit`, `Push` and commit (42_stuff_checksum.md R180, R181, R186).

The block takes no trap (60_exceptions.md R230, R239), so there is no exception entry and no return from one. What stands
in their place are its two error conditions (R231), each one shared operation: `frameError` (`E_FRAME`, R232) and
`dropUnit` (`E_OVF`, R234). -/

namespace Sys2Proof.Machine

/-- `Respond(s)`: emit a byte sequence on RSP (00_scope.md R11). -/
def respond (bytes : List Byte) (s : State) : State := { s with rsp := s.rsp ++ [bytes] }

/-- `SbusSend` of each byte in turn: append to SBUS_TX (00_scope.md R11). -/
def sbusSend (bytes : List Byte) (s : State) : State := { s with sbusTx := s.sbusTx ++ bytes }

/-- `BleNotify(s)`: emit one BLE_TX notification (00_scope.md R11). -/
def bleNotify (bytes : List Byte) (s : State) : State := { s with bleTx := s.bleTx ++ [bytes] }

/-- The register writes of RST (44_control.md R220). The ports, the pending input and the parameters are no registers and
stay. `PBUF` and `TBUF` are "unspecified" after it: each byte of them is a free value (log entry 2). -/
def resetRegisters (s : State) : State :=
  { s with
    pstate := .seeking, cnt := 0, pbuf := Vector.ofFn fun i : Fin 25 => Config.unspecifiedByte s.cmdPos i.val
    prev := 0x00, prevV := false
    lframe := none, lvalid := false, new := false
    errcnt := 0
    stxb := none, stxv := false
    chk := 0x00, tlen := 0, tovf := false
    tbuf := (List.range s.cfg.lineMax).map fun i => Config.unspecifiedByte s.cmdPos (25 + i)
    tfront := (State.resetWith s.cfg).tfront, tflen := 0, tfv := false }

/-! ### The SBUS parser (40_sbus_decoder.md R121) -/

/-- The bytes of `LFRAME`. A read while it holds no value gives the free frame (log entry 3). -/
def latestFrame (s : State) : Frame := s.lframe.getD Config.noValueFrame

/-- R121, `Seeking` and a frame starts: `PBUF[0] <- b`, `CNT <- 1`, `PSTATE <- Filling`. -/
def startFrame (b : Byte) (s : State) : State :=
  { s with pbuf := s.pbuf.set 0 b, cnt := 1, pstate := .filling }

/-- R121, the 25th byte is a valid footer: copy the frame to `LFRAME`, set `NEW` and `LVALID`. -/
def deliverFrame (F : Frame) (s : State) : State :=
  { s with lframe := some F, new := true, lvalid := true }

/-- `E_FRAME` (60_exceptions.md R232): `ERRCNT` increments modulo 2^16, the frame is discarded. -/
def frameError (s : State) : State := { s with errcnt := s.errcnt + 1 }

/-- R121, `Filling`: bytes 2 to 24 are appended; the 25th completes or discards the frame and returns to `Seeking`. -/
def fillFrame (b : Byte) (s : State) : State :=
  if h : s.cnt.toNat < 24 then
    { s with pbuf := s.pbuf.set s.cnt.toNat b, cnt := s.cnt + 1 }
  else
    let closed := { s with pbuf := s.pbuf.set 24 b, cnt := 0, pstate := .seeking }
    if isFooter b then deliverFrame closed.pbuf closed else frameError closed

/-- R121, the branches before the last two lines: a byte is discarded, starts a frame, or goes into one. -/
def parseByte (b : Byte) (s : State) : State :=
  match s.pstate with
  | .seeking => if startsFrame b s then startFrame b s else s
  | .filling => fillFrame b s

/-- R121, "every byte, in every branch": `PREV <- b`, `PREV_V <- 1`. -/
def notePrevious (b : Byte) (s : State) : State := { s with prev := b, prevV := true }

/-! ### The SBUS front buffer (41_sbus_encoder.md R161, R163, R165) -/

/-- `STXB[0..24] <- F` in one atomic write, `STXV <- 1`. -/
def storeFrontFrame (F : Frame) (s : State) : State := { s with stxb := some F, stxv := true }

/-- The bytes of `STXB`. A read while it holds no value gives the free frame (log entry 3). -/
def frontFrame (s : State) : Frame := s.stxb.getD Config.noValueFrame

/-! ### The stuffing and checksum engine (42_stuff_checksum.md R180 to R186) -/

/-- `E_OVF` (60_exceptions.md R234, R180): `TOVF <- 1`, `TLEN <- 0`; the unit is dropped. -/
def dropUnit (s : State) : State := { s with tovf := true, tlen := 0 }

/-- `Emit(x)` (R180): a bounded write of one byte to the back buffer. -/
def emit (x : Byte) (s : State) : State :=
  if s.tovf then s
  else if s.tlen.toNat < s.cfg.lineMax then
    { s with tbuf := s.tbuf.set s.tlen.toNat x, tlen := s.tlen + 1 }
  else dropUnit s

/-- `Emit` of each byte in turn. -/
def emitAll (bytes : List Byte) (s : State) : State := bytes.foldl (fun t x => emit x t) s

/-- `Push(x)` (R181): XOR into the checksum before stuffing, then emit the stuffed bytes. -/
def push (x : Byte) (s : State) : State := emitAll (stuff x) { s with chk := s.chk ^^^ x }

/-- `Push` of each byte in turn. -/
def pushAll (bytes : List Byte) (s : State) : State := bytes.foldl (fun t x => push x t) s

/-- Start a new unit (R182): `CHK <- 0`, `TLEN <- 0`, `TOVF <- 0`. -/
def startUnit (s : State) : State := { s with chk := 0x00, tlen := 0, tovf := false }

/-- Push the checksum byte (R185): the value before the push (90_conflicts.md C5). -/
def pushChecksum (s : State) : State := push s.chk s

/-- Commit (R186): copy `TBUF[0..TLEN-1]` to `TFRONT`, unless the unit overflowed or is empty. -/
def commit (s : State) : State :=
  if !s.tovf && decide (0 < s.tlen.toNat) then
    { s with
      tfront := (s.tbuf.take s.tlen.toNat).map some ++ s.tfront.drop s.tlen.toNat
      tflen := s.tlen, tfv := true }
  else s

/-- `TFRONT[i]`. A read of a byte that holds no value gives the free byte (log entry 3). -/
def frontByte (s : State) (i : Nat) : Byte := (s.tfront.getD i none).getD (Config.noValueByte i)

/-- `TFRONT[0..TFLEN-1]`. -/
def frontBytes (s : State) : List Byte := (List.range s.tflen.toNat).map (frontByte s)

end Sys2Proof.Machine
end

