-- ==== Sys2Proof/Machine/Control.lean ====
section
/-! DEFINITION. The control commands: RST and STAT (44_control.md). -/

namespace Sys2Proof.Machine

/-- RST (44_control.md R220): return every register of the block to its reset value. -/
def execRst (s : State) : Host.Outcome State Fault Refusal := .next (resetRegisters s)

/-- STAT (44_control.md R221): respond with the three status words; no state changes. -/
def execStat (s : State) : Host.Outcome State Fault Refusal :=
  .next (respond (le32 (statusW0 s) ++ le32 (statusW1 s) ++ le32 (statusW2 s)) s)

end Sys2Proof.Machine
end

