-- ==== Sys2Proof/Machine/Engine.lean ====
section
/-! DEFINITION. The byte-stuffing and checksum engine: ERST, ERAW, EPUSH, ECHK and ECMT (42_stuff_checksum.md). -/

namespace Sys2Proof.Machine

/-- ERST (42_stuff_checksum.md R182): start a new unit. -/
def execErst (s : State) : Host.Outcome State Fault Refusal := .next (startUnit s)

/-- ERAW (42_stuff_checksum.md R183): emit one byte raw, not checksummed and not stuffed. -/
def execEraw (b : Byte) (s : State) : Host.Outcome State Fault Refusal := .next (emit b s)

/-- EPUSH (42_stuff_checksum.md R184): push one byte. -/
def execEpush (b : Byte) (s : State) : Host.Outcome State Fault Refusal := .next (push b s)

/-- ECHK (42_stuff_checksum.md R185): push the current checksum value. -/
def execEchk (s : State) : Host.Outcome State Fault Refusal := .next (pushChecksum s)

/-- ECMT (42_stuff_checksum.md R186): commit the back buffer to the front buffer. -/
def execEcmt (s : State) : Host.Outcome State Fault Refusal := .next (commit s)

end Sys2Proof.Machine
end

