-- ==== Sys2Proof/Machine/SbusDecoder.lean ====
section
/-! DEFINITION. The SBUS decoder family: SRX and SPOLL (40_sbus_decoder.md). -/

namespace Sys2Proof.Machine

/-- SRX (40_sbus_decoder.md R121): feed one received byte to the parser. -/
def execSrx (b : Byte) (s : State) : Host.Outcome State Fault Refusal :=
  .next (notePrevious b (parseByte b s))

/-- The SPOLL status byte `NEW | (LVALID << 1)`, with `LVALID = 1` (30_encoding.md R107). -/
def pollStatus (new : Bool) : Byte := (flagBit new).setWidth 8 ||| (1#8 <<< 1)

/-- The SPOLL response with a frame (30_encoding.md R107): status, frame, raw channels, PWM values, flags. -/
def pollReport (c : Config) (new : Bool) (F : Frame) : List Byte :=
  [pollStatus new] ++ F.toList ++
    (sbusUnpack F).toList.flatMap (fun r => le16 (r.setWidth 16)) ++
    (pwmChannels c (sbusUnpack F)).toList.flatMap le16 ++ [(sbusFlags F).setWidth 8]

/-- The SPOLL response (40_sbus_decoder.md R127): `0x00` while no frame has ever completed. -/
def pollResponse (s : State) : List Byte :=
  if s.lvalid then pollReport s.cfg s.new (latestFrame s) else [0x00]

/-- SPOLL (40_sbus_decoder.md R127): report the latest valid frame, then clear `NEW`. -/
def execSpoll (s : State) : Host.Outcome State Fault Refusal :=
  .next { respond (pollResponse s) s with new := false }

end Sys2Proof.Machine
end

