-- ==== Sys2Proof/Machine/SbusEncoder.lean ====
section
/-! DEFINITION. The SBUS encoder family: SENC, SENCP and STX (41_sbus_encoder.md). -/

namespace Sys2Proof.Machine

/-- SENC (41_sbus_encoder.md R161): pack raw channels into the front buffer. Operands outside R103 are refused, neither
truncated nor clamped. -/
def execSenc (w : Channels) (fl : Byte) (s : State) : Host.Outcome State Fault Refusal :=
  if (Instr.senc w fl).wellFormed then
    .next (storeFrontFrame (sbusPack (rawOperands w) (flagOperand fl)) s)
  else .refused (.illFormed s.cmdPos)

/-- SENCP (41_sbus_encoder.md R163): scale PWM values to raw and pack them into the front buffer. -/
def execSencp (w : Channels) (fl : Byte) (s : State) : Host.Outcome State Fault Refusal :=
  if (Instr.sencp w fl).wellFormed then
    .next (storeFrontFrame (sbusPack (pwmOperands s.cfg w) (flagOperand fl)) s)
  else .refused (.illFormed s.cmdPos)

/-- STX (41_sbus_encoder.md R165): transmit the front buffer if it holds a frame. -/
def execStx (s : State) : Host.Outcome State Fault Refusal :=
  .next (if s.stxv then sbusSend (frontFrame s).toList s else s)

end Sys2Proof.Machine
end

