-- ==== Sys2Proof/Machine/Trainer.lean ====
section
/-! DEFINITION. The trainer encoder: TENC and TTX (43_trainer_encoder.md). -/

namespace Sys2Proof.Machine

/-- Steps 1 to 6 of TENC (43_trainer_encoder.md R201), before the commit: new unit, sentinel, frame type, 8 pairs,
checksum, sentinel. -/
def buildTrainerFrame (w : Channels) (s : State) : State :=
  emit sentinel (pushChecksum (pushAll (packedPairs w) (push trainerType (emit sentinel (startUnit s)))))

/-- TENC (43_trainer_encoder.md R201): build a whole trainer frame and commit it, as one atomic command. -/
def execTenc (w : Channels) (s : State) : Host.Outcome State Fault Refusal :=
  .next (commit (buildTrainerFrame w s))

/-- TTX (43_trainer_encoder.md R202): send the front buffer as one notification, if it holds a frame. -/
def execTtx (s : State) : Host.Outcome State Fault Refusal :=
  .next (if s.tfv then bleNotify (frontBytes s) s else s)

end Sys2Proof.Machine
end

