-- ==== Sys2Proof/Machine/Dispatch.lean ====
section
/-! DEFINITION. The dispatcher: one arm per constructor of `Instr`. -/

namespace Sys2Proof.Machine

/-- The meaning of a command (30_encoding.md R104). -/
def exec (i : Instr) (s : State) : Host.Outcome State Fault Refusal :=
  match i with
  | .rst => Sys2Proof.Machine.execRst s
  | .stat => Sys2Proof.Machine.execStat s
  | .srx b => Sys2Proof.Machine.execSrx b s
  | .spoll => Sys2Proof.Machine.execSpoll s
  | .senc w fl => Sys2Proof.Machine.execSenc w fl s
  | .sencp w fl => Sys2Proof.Machine.execSencp w fl s
  | .stx => Sys2Proof.Machine.execStx s
  | .erst => Sys2Proof.Machine.execErst s
  | .eraw b => Sys2Proof.Machine.execEraw b s
  | .epush b => Sys2Proof.Machine.execEpush b s
  | .echk => Sys2Proof.Machine.execEchk s
  | .ecmt => Sys2Proof.Machine.execEcmt s
  | .tenc w => Sys2Proof.Machine.execTenc w s
  | .ttx => Sys2Proof.Machine.execTtx s

end Sys2Proof.Machine
end

