-- ==== Sys2Proof/Machine/Fetch.lean ====
section
/-! DEFINITION. How the block comes by its next command: which agent's turn it is, what that port holds, and moving past a
command once it has run (30_encoding.md R100, R106; 20_memory.md R67; 60_exceptions.md R233, R241). -/

namespace Sys2Proof.Machine

/-- The agent the next acceptance takes from: the head of the interleaving, and the host past its end (log entry 5). -/
def turn (s : State) : Agent := s.acceptOrder.headD .host

/-- The next command: the head of the CMD stream, or `SRX b` for a received byte `b` (R100). `none`: that port holds
nothing, and the block waits (60_exceptions.md R244). A refusal names the offset of the refused opcode (R233). -/
def nextCommand (s : State) : Except Refusal (Option Instr) :=
  match turn s with
  | .host =>
    match decode s.cmdIn with
    | .ok i => .ok (some i)
    | .error .noCommand => .ok none
    | .error .reservedOpcode => .error (.reservedOpcode s.cmdPos)
    | .error .truncated => .error (.truncated s.cmdPos)
    | .error .illFormed => .error (.illFormed s.cmdPos)
  | .sbusSource =>
    match s.sbusRx with
    | [] => .ok none
    | b :: _ => .ok (some (.srx b))

/-- The turn is used up and no port moves. -/
def passTurn (s : State) : State := { s with acceptOrder := s.acceptOrder.tail }

/-- Move past the command `i` that agent `a` gave. -/
def passCommand (a : Agent) (i : Instr) (s : State) : State :=
  match a with
  | .host =>
    { s with cmdIn := s.cmdIn.drop i.length, cmdPos := s.cmdPos + i.length, acceptOrder := s.acceptOrder.tail }
  | .sbusSource => { s with sbusRx := s.sbusRx.tail, acceptOrder := s.acceptOrder.tail }

/-- Apply `f` to a next state; a stop stays as it is. -/
def thenNext (f : State → State) : Host.Outcome State Fault Refusal → Host.Outcome State Fault Refusal
  | .next s => .next (f s)
  | .fault r => .fault r
  | .refused r => .refused r

/-- The state with one command's bytes delivered at the head of the CMD stream, and the host's turn next. -/
def deliverCommand (bytes : List Byte) (s : State) : State :=
  { s with cmdIn := bytes ++ s.cmdIn, acceptOrder := .host :: s.acceptOrder }

end Sys2Proof.Machine
end

