-- ==== Sys2Proof/Machine/Step.lean ====
section
/-! DEFINITION. One step of the block: accept one command, run it, move past it (70_reset_and_hazards.md R271). -/

namespace Sys2Proof.Machine

/-- One step. With nothing to accept the block holds its state (60_exceptions.md R244); a refused command changes nothing
and ends the run (R233). -/
def step (s : State) : Host.Outcome State Fault Refusal :=
  match nextCommand s with
  | .error r => .refused r
  | .ok none => .next (passTurn s)
  | .ok (some i) => thenNext (passCommand (turn s) i) (exec i s)

/-- `s` with the command of a table word delivered as the next one the block accepts, on CMD (log entry 4). -/
def State.withFetchWord (s : State) (nbits w : Nat) : State := deliverCommand (tableCommand nbits w) s

end Sys2Proof.Machine
end

