-- ==== Sys2Proof/Safety.lean ====
section
/-! DEFINITION. What counts as a good state and a good run, in the terms the statements use: the invariants of
10_state.md R40, running a sequence of commands, the bytes no rule reads, and the frames the spec describes whole. -/

namespace Sys2Proof.Machine

/-! ### Sequences of commands -/

/-- Run commands in order, stopping at the first that does not answer a next state. -/
def execAll : List Instr → State → Host.Outcome State Fault Refusal
  | [], s => .next s
  | i :: is, s =>
    match exec i s with
    | .next t => execAll is t
    | .fault r => .fault r
    | .refused r => .refused r

/-- The XOR of a list of bytes. -/
def xorAll (bytes : List Byte) : Byte := bytes.foldr (fun x acc => x ^^^ acc) 0

/-! ### The frames the spec describes whole -/

/-- The first 25 payload bytes `P[0..24]` of a trainer frame: the frame type and the 24 packed bytes (30_encoding.md R90). -/
def trainerPayload (w : Channels) : List Byte := trainerType :: packedPairs w

/-- A framed unit: sentinel, stuffed payload, stuffed XOR of the payload, sentinel (42_stuff_checksum.md R188). -/
def framedUnit (sent : Byte) (payload : List Byte) : List Byte :=
  [sent] ++ payload.flatMap stuff ++ stuff (xorAll payload) ++ [sent]

/-- The trainer frame of sixteen channel words (30_encoding.md R90 to R93). -/
def trainerFrame (w : Channels) : List Byte := framedUnit sentinel (trainerPayload w)

/-- How many payload bytes of a trainer frame R93 stuffs: the `s` of 30_encoding.md R94. -/
def stuffedCount (w : Channels) : Nat :=
  (trainerPayload w ++ [xorAll (trainerPayload w)]).countP needsStuffing

/-- The frames that complete, in order, while the bytes are fed to the parser (40_sbus_decoder.md R121, R129). -/
def deliveredFrames : List Byte → State → List Frame
  | [], _ => []
  | b :: bs, s =>
    let later := deliveredFrames bs (notePrevious b (parseByte b s))
    if s.pstate = .filling ∧ 24 ≤ s.cnt.toNat ∧ isFooter b = true then s.pbuf.set 24 b :: later else later

/-! ### The invariants of 10_state.md R40 -/

/-- A received frame's shape: header first, valid footer last (R40 item 3). -/
def receivedFrameShape (F : Frame) : Bool := F[0] == 0x0F && isFooter F[24]

/-- A built frame's shape: header first, footer 0x00 last, flag bits 7:4 zero (R40 item 9). -/
def builtFrameShape (F : Frame) : Bool := F[0] == 0x0F && F[24] == 0x00 && F[23].extractLsb' 4 4 == 0

/-- The nine invariants of 10_state.md R40, in its order. -/
structure State.R40 (s : State) : Prop where
  seeking_iff_empty : s.pstate = .seeking ↔ s.cnt = 0
  filling_has_header : s.pstate = .filling → s.pbuf[0] = 0x0F
  lvalid_has_frame : s.lvalid = true → s.lframe.any receivedFrameShape = true
  new_lvalid : s.new = true → s.lvalid = true
  tlen_bounded : s.tlen.toNat ≤ s.cfg.lineMax
  tovf_empty : s.tovf = true → s.tlen = 0
  no_front_no_length : s.tfv = false → s.tflen = 0
  front_length : s.tfv = true → 1 ≤ s.tflen.toNat ∧ s.tflen.toNat ≤ s.cfg.lineMax
  stxv_has_frame : s.stxv = true → s.stxb.any builtFrameShape = true

/-- The invariant every step keeps: R40, the ranges of 10_state.md R23 and R33, the buffers' sizes (R32, R35), a value in
exactly the buffers whose valid bit is set (R26, R30, R35), and the constraints of 00_scope.md R8. -/
structure State.Inv (s : State) : Prop extends State.R40 s where
  cfg_valid : s.cfg.Valid
  cnt_range : s.cnt.toNat ≤ 24
  lframe_iff : s.lframe.isSome = s.lvalid
  stxb_iff : s.stxb.isSome = s.stxv
  tbuf_size : s.tbuf.length = s.cfg.lineMax
  tfront_size : s.tfront.length = s.cfg.lineMax
  front_has_value : ∀ c ∈ s.tfront.take s.tflen.toNat, c.isSome = true

/-! ### The bytes no rule reads (93_implementation_defined.md I5) -/

/-- Two states that differ at most in `PBUF` at positions at or beyond `CNT` and in `TBUF` at positions at or beyond
`TLEN`: the bytes "no rule reads" (10_state.md R24, R32). -/
structure State.SameButUnread (s t : State) : Prop where
  rest : { s with pbuf := t.pbuf, tbuf := t.tbuf } = t
  pbuf_read : ∀ (i : Nat) (h : i < 25), i < s.cnt.toNat → s.pbuf[i] = t.pbuf[i]
  tbuf_size : s.tbuf.length = t.tbuf.length
  tbuf_read : s.tbuf.take s.tlen.toNat = t.tbuf.take s.tlen.toNat

/-- Two outcomes that no port can tell apart: next states that differ only in unread bytes, or the same stop. -/
def outcomesAgree : Host.Outcome State Fault Refusal → Host.Outcome State Fault Refusal → Prop
  | .next s, .next t => s.SameButUnread t
  | .fault r, .fault r' => r = r'
  | .refused r, .refused r' => r = r'
  | _, _ => False

end Sys2Proof.Machine
end

