-- ==== Sys2Proof/Certificates/Slice0/Obligations.lean ====
section
/-! DEFINITION. The statements for the provers. Each docstring names the rule of spec/ it formalises; OBLIGATIONS.json
lists them with tier, basis and quote. Every statement holds for every configuration (`State.cfg`, log entry 1) unless it
says otherwise. -/

open Sys2Proof Sys2Proof.Machine

/-! ### Encoding (30_encoding.md section 3) -/

/-- Decoding an encoded command gives it back, whatever follows it in the stream, and its length is its format's
(30_encoding.md section 3). -/
def Obligations.DecodeOfEncodedCommand : Prop :=
  ∀ (i : Instr) (rest : List Byte), i.wellFormed = true →
    decode (encode i ++ rest) = .ok i ∧ (encode i).length = i.length

/-- Each byte string has one meaning: what decodes is a well-formed command, and the bytes it was read from are its
encoding (30_encoding.md section 3). -/
def Obligations.EncodeOfDecodedCommand : Prop :=
  ∀ (bs : List Byte) (i : Instr), decode bs = .ok i →
    i.wellFormed = true ∧ i.length ≤ bs.length ∧ bs.take i.length = encode i

/-- Commands written out byte by byte from R101, R102 and R104 decode to what they stand for. -/
def Obligations.WordsFromTheOpcodeMapDecode : Prop :=
  decode [0x01] = .ok .rst ∧ decode [0x02] = .ok .stat ∧ decode [0x10, 0x5A] = .ok (.srx 0x5A) ∧
  decode [0x11, 0x10] = .ok .spoll ∧ decode [0x22] = .ok .stx ∧ decode [0x30] = .ok .erst ∧
  decode [0x31, 0x7E] = .ok (.eraw 0x7E) ∧ decode [0x32, 0x7D] = .ok (.epush 0x7D) ∧ decode [0x33] = .ok .echk ∧
  decode [0x34] = .ok .ecmt ∧ decode [0x41] = .ok .ttx

/-- R105: exactly the 242 values outside the opcode map are reserved, and a command with a reserved opcode is refused at
its own offset, whatever follows it. -/
def Obligations.ReservedOpcodesAreRefused : Prop :=
  (∀ (b : Byte) (rest : List Byte),
    decode (b :: rest) = .error .reservedOpcode ↔
      b.toNat = 0x00 ∨ (0x03 ≤ b.toNat ∧ b.toNat ≤ 0x0F) ∨ (0x12 ≤ b.toNat ∧ b.toNat ≤ 0x1F) ∨
      (0x23 ≤ b.toNat ∧ b.toNat ≤ 0x2F) ∨ (0x35 ≤ b.toNat ∧ b.toNat ≤ 0x3F) ∨
      (0x42 ≤ b.toNat ∧ b.toNat ≤ 0xFF)) ∧
  ((List.range 256).filter fun n => (Opcode.ofByte (BitVec.ofNat 8 n)).isNone).length = 242 ∧
  (∀ (s : State) (b : Byte) (rest : List Byte),
    s.acceptOrder.headD .host = .host → s.cmdIn = b :: rest → decode (b :: rest) = .error .reservedOpcode →
      step s = .refused (.reservedOpcode s.cmdPos))

/-- R106: the opcode byte alone fixes a command's length, and a stream that ends inside a command is refused at the
offset of that command's opcode, well-formed operands or not. -/
def Obligations.StreamEndingInsideACommandIsRefused : Prop :=
  (∀ i : Instr, (encode i).length =
    match i.opcode.format with
    | .f0 => 1
    | .f1 => 2
    | .fs => 34
    | .ft => 33) ∧
  (∀ i j : Instr, (encode i).head? = (encode j).head? → (encode i).length = (encode j).length) ∧
  (∀ (s : State) (i : Instr) (k : Nat),
    s.acceptOrder.headD .host = .host → 0 < k → k < (encode i).length → s.cmdIn = (encode i).take k →
      step s = .refused (.truncated s.cmdPos))

/-- R103: which operands are well-formed, and that an ill-formed command is refused by the decoder, by the step and by
its own meaning. -/
def Obligations.IllFormedCommandsAreRefused : Prop :=
  (∀ (w : Channels) (fl : Byte), (Instr.senc w fl).wellFormed = true ↔
    (∀ (k : Nat) (h : k < 16), w[k].toNat ≤ 2047 ∧ w[k].extractLsb' 11 5 = 0) ∧ fl.extractLsb' 4 4 = 0) ∧
  (∀ (w : Channels) (fl : Byte), (Instr.sencp w fl).wellFormed = true ↔ fl.extractLsb' 4 4 = 0) ∧
  (∀ w : Channels, (Instr.tenc w).wellFormed = true) ∧
  (∀ i : Instr, i.opcode.format = .f0 ∨ i.opcode.format = .f1 → i.wellFormed = true) ∧
  (∀ (i : Instr) (s : State) (rest : List Byte), i.wellFormed = false →
    exec i s = .refused (.illFormed s.cmdPos) ∧ decode (encode i ++ rest) = .error .illFormed ∧
    (s.acceptOrder.headD .host = .host → s.cmdIn = encode i ++ rest → step s = .refused (.illFormed s.cmdPos)))

/-- R233: the block refuses in exactly three cases, each naming the offset of the opcode at the head of the CMD stream,
and after a refusal nothing more runs. -/
def Obligations.RefusalHasExactlyThreeCauses : Prop :=
  (∀ (s : State) (r : Refusal), step s = .refused r ↔
    s.acceptOrder.headD .host = .host ∧
    ((decode s.cmdIn = .error .reservedOpcode ∧ r = .reservedOpcode s.cmdPos) ∨
     (decode s.cmdIn = .error .illFormed ∧ r = .illFormed s.cmdPos) ∨
     (decode s.cmdIn = .error .truncated ∧ r = .truncated s.cmdPos))) ∧
  (∀ (s : State) (r : Refusal) (k : Nat), step s = .refused r → Host.Core.run core (k + 1) s = .refused r)

/-! ### One step (00_scope.md section 4, 20_memory.md section 4) -/

/-- On the host's turn, a step is the meaning of the command at the head of the CMD stream, and then the stream stands
behind that command. -/
def Obligations.StepRunsTheDecodedCommand : Prop :=
  ∀ (s : State) (i : Instr), s.acceptOrder.headD .host = .host → decode s.cmdIn = .ok i →
    step s =
      match exec i s with
      | .next t => .next { t with
          cmdIn := t.cmdIn.drop (encode i).length, cmdPos := t.cmdPos + (encode i).length
          acceptOrder := t.acceptOrder.tail }
      | .fault r => .fault r
      | .refused r => .refused r

/-- R100: an SBUS_RX byte event is the command `SRX b`: on the byte source's turn, a step is the meaning of `SRX b` for
the oldest received byte, and that byte is then gone. Whose turn it is stands in `acceptOrder` (log entry 5). -/
def Obligations.StepRunsAReceivedByteAsSrx : Prop :=
  ∀ (s : State) (b : Byte) (later : List Byte) (order : List Agent),
    s.acceptOrder = .sbusSource :: order → s.sbusRx = b :: later →
    ∃ t, exec (.srx b) s = .next t ∧ step s = .next { t with sbusRx := later, acceptOrder := order }

/-- With nothing to accept the block holds its state (60_exceptions.md R244; the form of a step that
accepts nothing is the model's choice, log entry 7). -/
def Obligations.StepHoldsItsStateWithNothingToAccept : Prop :=
  (∀ s : State, s.acceptOrder.headD .host = .host → s.cmdIn = [] →
    step s = .next { s with acceptOrder := s.acceptOrder.tail }) ∧
  (∀ (s : State) (order : List Agent), s.acceptOrder = .sbusSource :: order → s.sbusRx = [] →
    step s = .next { s with acceptOrder := order })

/-- R128: a batch of received bytes has exactly the effect of one SRX per byte, in stream order. -/
def Obligations.BatchOfBytesIsOneSrxPerByte : Prop :=
  ∀ (s : State) (batch later : List Byte) (order : List Agent),
    s.acceptOrder = List.replicate batch.length .sbusSource ++ order → s.sbusRx = batch ++ later →
    ∃ t, execAll (batch.map .srx) s = .next t ∧
      Host.Core.run core batch.length s = .next { t with sbusRx := later, acceptOrder := order }

/-! ### Control and status (44_control.md) -/

/-- R220: RST returns every register to its reset value and leaves the output ports and the parameters; a second RST changes
nothing a rule reads, no first byte starts a frame, and STAT then responds with twelve zero bytes. -/
def Obligations.RstReturnsEveryRegisterToReset : Prop :=
  (∀ rest : List Byte, decode (0x01 :: rest) = .ok .rst) ∧
  ∀ s : State, ∃ t, exec .rst s = .next t ∧
    t.pstate = .seeking ∧ t.cnt = 0 ∧ t.prev = 0x00 ∧ t.prevV = false ∧ t.lvalid = false ∧ t.new = false ∧
    t.lframe = none ∧ t.errcnt = 0 ∧ t.stxv = false ∧ t.stxb = none ∧ t.chk = 0x00 ∧ t.tlen = 0 ∧ t.tovf = false ∧
    t.tfv = false ∧ t.tflen = 0 ∧ t.tfront = List.replicate s.cfg.lineMax none ∧
    t.sbusTx = s.sbusTx ∧ t.bleTx = s.bleTx ∧ t.rsp = s.rsp ∧ t.cfg = s.cfg ∧
    (∃ u, exec .rst t = .next u ∧ t.SameButUnread u) ∧
    (∀ b : Byte, ∃ u, exec (.srx b) t = .next u ∧ u.pstate = .seeking ∧ u.errcnt = 0) ∧
    (∃ u, exec .stat t = .next u ∧ u.rsp = t.rsp ++ [List.replicate 12 0x00])

/-- Power-on reset puts the block into the same state as the RST command (70_reset_and_hazards.md R260), up to the bytes of
`PBUF` and `TBUF` the spec leaves unspecified, which no rule reads. What was sent on the output ports stays (R262); that
RST also keeps the pending input and the interleaving is the model's reading (log entry 10), no rule's word. -/
def Obligations.PowerOnResetEqualsRst : Prop :=
  ∀ s : State, ∃ t, exec .rst s = .next t ∧
    t.SameButUnread { State.resetWith s.cfg with
      sbusTx := s.sbusTx, bleTx := s.bleTx, rsp := s.rsp, cmdIn := s.cmdIn, cmdPos := s.cmdPos
      sbusRx := s.sbusRx, acceptOrder := s.acceptOrder }

/-- R221: STAT responds with W0, W1, W2, taken from the state before it, and changes nothing else. -/
def Obligations.StatRespondsWithTheStatusWords : Prop :=
  (∀ rest : List Byte, decode (0x02 :: rest) = .ok .stat) ∧
  ∀ s : State, exec .stat s = .next { s with
    rsp := s.rsp ++ [le32 (statusW0 s) ++ le32 (statusW1 s) ++ le32 (statusW2 s)] }

/-- R222, R223, R224: the fields of the status words. -/
def Obligations.StatusWordFields : Prop :=
  ∀ s : State,
    (statusW0 s).getLsbD 0 = (s.pstate == .filling) ∧ (statusW0 s).extractLsb' 1 5 = s.cnt ∧
    (statusW0 s).getLsbD 6 = s.new ∧ (statusW0 s).getLsbD 7 = s.lvalid ∧ (statusW0 s).getLsbD 8 = s.prevV ∧
    (statusW0 s).getLsbD 9 = s.stxv ∧ (statusW0 s).getLsbD 10 = s.tovf ∧ (statusW0 s).getLsbD 11 = s.tfv ∧
    (statusW0 s).extractLsb' 12 4 = 0 ∧ (statusW0 s).extractLsb' 16 8 = s.prev ∧
    (statusW0 s).extractLsb' 24 8 = s.chk ∧
    (statusW1 s).extractLsb' 0 16 = s.errcnt ∧ (statusW1 s).extractLsb' 16 16 = s.tlen ∧
    (statusW2 s).extractLsb' 0 16 = s.tflen ∧ (statusW2 s).extractLsb' 16 16 = 0

/-- R261: from reset, STAT responds with three zero words, SPOLL with `0x00`, and STX and TTX send nothing. -/
def Obligations.ResetStateIsObservedAsZero : Prop :=
  ∀ c : Config,
    (∃ t, exec .stat (State.resetWith c) = .next t ∧ t.rsp = [List.replicate 12 0x00]) ∧
    (∃ t, exec .spoll (State.resetWith c) = .next t ∧ t.rsp = [[0x00]]) ∧
    (∃ t, exec .stx (State.resetWith c) = .next t ∧ t.sbusTx = []) ∧
    (∃ t, exec .ttx (State.resetWith c) = .next t ∧ t.bleTx = [])

/-! ### SBUS decoder (40_sbus_decoder.md) -/

/-- R121 (with R120 and R122): SRX, branch by branch, with everything it leaves unchanged. -/
def Obligations.SrxFollowsTheParserRule : Prop :=
  (∀ (b : Byte) (rest : List Byte), decode (0x10 :: b :: rest) = .ok (.srx b)) ∧
  ∀ (b : Byte) (s : State),
    (s.pstate = .seeking → b = 0x0F → s.prevV = true → (s.prev = 0x00 ∨ s.prev.extractLsb' 0 4 = 4) →
      exec (.srx b) s = .next { s with
        pbuf := s.pbuf.set 0 b, cnt := 1, pstate := .filling, prev := b, prevV := true }) ∧
    (s.pstate = .seeking → ¬(b = 0x0F ∧ s.prevV = true ∧ (s.prev = 0x00 ∨ s.prev.extractLsb' 0 4 = 4)) →
      exec (.srx b) s = .next { s with prev := b, prevV := true }) ∧
    (∀ h : s.cnt.toNat < 24, s.pstate = .filling →
      exec (.srx b) s = .next { s with
        pbuf := s.pbuf.set s.cnt.toNat b, cnt := s.cnt + 1, prev := b, prevV := true }) ∧
    (s.pstate = .filling → s.cnt.toNat = 24 → (b = 0x00 ∨ b.extractLsb' 0 4 = 4) →
      exec (.srx b) s = .next { s with
        pbuf := s.pbuf.set 24 b, lframe := some (s.pbuf.set 24 b), new := true, lvalid := true
        cnt := 0, pstate := .seeking, prev := b, prevV := true }) ∧
    (s.pstate = .filling → s.cnt.toNat = 24 → ¬(b = 0x00 ∨ b.extractLsb' 0 4 = 4) →
      exec (.srx b) s = .next { s with
        pbuf := s.pbuf.set 24 b, errcnt := s.errcnt + 1
        cnt := 0, pstate := .seeking, prev := b, prevV := true })

/-- R123: a frame that has started runs to exactly 25 bytes, whatever the bytes are: up to the 24th nothing is delivered
and no error is counted, and the 25th always returns to `Seeking`. -/
def Obligations.StartedFrameRunsToTwentyFiveBytes : Prop :=
  ∀ (s : State) (bytes : List Byte), s.pstate = .filling → s.cnt.toNat + bytes.length = 24 →
    ∃ t, execAll (bytes.map .srx) s = .next t ∧ t.pstate = .filling ∧ t.cnt.toNat = 24 ∧
      t.lframe = s.lframe ∧ t.new = s.new ∧ t.lvalid = s.lvalid ∧ t.errcnt = s.errcnt ∧
      ∀ b : Byte, ∃ u, exec (.srx b) t = .next u ∧ u.pstate = .seeking ∧ u.cnt = 0

/-- R84: the decoder checks only the first byte (with the byte before it) and the 25th byte of a frame: every value of
`F[1..23]` is accepted. -/
def Obligations.FrameAcceptanceDependsOnHeaderAndFooterOnly : Prop :=
  ∀ (s : State) (F : Frame), s.pstate = .seeking →
    (s.prevV = true → isFooter s.prev = true → F[0] = 0x0F → isFooter F[24] = true →
      execAll (F.toList.map .srx) s = .next { s with
        pbuf := F, cnt := 0, prev := F[24], prevV := true, lframe := some F, new := true, lvalid := true }) ∧
    (s.prevV = true → isFooter s.prev = true → F[0] = 0x0F → isFooter F[24] = false →
      execAll (F.toList.map .srx) s = .next { s with
        pbuf := F, cnt := 0, prev := F[24], prevV := true, errcnt := s.errcnt + 1 }) ∧
    (¬(s.prevV = true ∧ isFooter s.prev = true ∧ F[0] = 0x0F) →
      exec (.srx F[0]) s = .next { s with prev := F[0], prevV := true })

/-- R232: recovery from a framing error, and that a header directly after the bad byte starts no frame. -/
def Obligations.FramingErrorIsCountedAndRecovered : Prop :=
  ∀ (s : State) (b : Byte), s.pstate = .filling → s.cnt.toNat = 24 → isFooter b = false →
    ∃ t, exec (.srx b) s = .next t ∧ t.lframe = s.lframe ∧ t.new = s.new ∧ t.lvalid = s.lvalid ∧
      t.errcnt.toNat = (s.errcnt.toNat + 1) % 65536 ∧ t.pstate = .seeking ∧ t.cnt = 0 ∧ t.prev = b ∧
      ∀ h : Byte, ∃ u, exec (.srx h) t = .next u ∧ u.pstate = .seeking ∧ u.cnt = 0 ∧ u.errcnt = t.errcnt

/-- R127 and R107: SPOLL's response, byte by byte, and that only `NEW` changes. -/
def Obligations.SpollReportsTheLatestFrame : Prop :=
  (∀ rest : List Byte, decode (0x11 :: rest) = .ok .spoll) ∧
  (∀ s : State, s.lvalid = false →
    exec .spoll s = .next { s with rsp := s.rsp ++ [[0x00]], new := false }) ∧
  (∀ (s : State) (F : Frame), s.lvalid = true → s.lframe = some F →
    exec .spoll s = .next { s with
      rsp := s.rsp ++ [[if s.new then 0x03#8 else 0x02#8] ++ F.toList ++
        (List.range 16).flatMap (fun i => le16 (((sbusUnpack F).toList.getD i 0).setWidth 16)) ++
        (List.range 16).flatMap (fun i => le16 (toPwm s.cfg ((sbusUnpack F).toList.getD i 0))) ++
        [F[23] &&& 0x0F]]
      new := false }) ∧
  (∀ (c : Config) (n : Bool) (F : Frame), (pollReport c n F).length = 91)

/-- Latest-wins (40_sbus_decoder.md section 5): after a sequence of SRX commands, SPOLL reports the last frame that
completed among them, with `NEW = 1`; if none completed, the frame and `NEW` are what they were. -/
def Obligations.LatestCompletedFrameWins : Prop :=
  ∀ (s : State) (bytes : List Byte), ∃ t, execAll (bytes.map .srx) s = .next t ∧
    (∀ F : Frame, (deliveredFrames bytes s).getLast? = some F →
      ∃ u, exec .spoll t = .next u ∧ u.rsp = s.rsp ++ [pollReport s.cfg true F] ∧ u.new = false) ∧
    (deliveredFrames bytes s = [] → t.lframe = s.lframe ∧ t.new = s.new ∧ t.lvalid = s.lvalid)

/-- R70: the side effects of the queries and transmits. A second SPOLL with no frame in between reports `NEW = 0`; STAT
changes only RSP; STX and TTX change only their port, and repeating one sends the same bytes again; SRX always changes
`PREV` and `PREV_V`. -/
def Obligations.QueryAndTransmitSideEffects : Prop :=
  (∀ (s : State) (F : Frame), s.lvalid = true → s.lframe = some F →
    ∃ t u, exec .spoll s = .next t ∧ exec .spoll t = .next u ∧
      u.rsp = s.rsp ++ [pollReport s.cfg s.new F, pollReport s.cfg false F]) ∧
  (∀ s : State, ∃ t, exec .stat s = .next t ∧ { t with rsp := s.rsp } = s) ∧
  (∀ s : State, ∃ t u sent, exec .stx s = .next t ∧ exec .stx t = .next u ∧ { t with sbusTx := s.sbusTx } = s ∧
    t.sbusTx = s.sbusTx ++ sent ∧ u.sbusTx = s.sbusTx ++ sent ++ sent) ∧
  (∀ s : State, ∃ t u sent, exec .ttx s = .next t ∧ exec .ttx t = .next u ∧ { t with bleTx := s.bleTx } = s ∧
    t.bleTx = s.bleTx ++ sent ∧ u.bleTx = s.bleTx ++ sent ++ sent) ∧
  (∀ (s : State) (b : Byte), ∃ t, exec (.srx b) s = .next t ∧ t.prev = b ∧ t.prevV = true)

/-! ### Packing and scaling (30_encoding.md section 1, 40_sbus_decoder.md section 3, 41_sbus_encoder.md section 1) -/

/-- The channel view of R82: where each channel's bits come from. -/
def Obligations.ChannelViewOfThePackedBytes : Prop :=
  ∀ F : Frame,
    let f := fun (k lo len : Nat) => (F.toList.getD k 0).extractLsb' lo len
    let ch := fun (i : Nat) => (sbusUnpack F).toList.getD i 0
    ch 0 = f 2 0 3 ++ f 1 0 8 ∧ ch 1 = f 3 0 6 ++ f 2 3 5 ∧ ch 2 = f 5 0 1 ++ f 4 0 8 ++ f 3 6 2 ∧
    ch 3 = f 6 0 4 ++ f 5 1 7 ∧ ch 4 = f 7 0 7 ++ f 6 4 4 ∧ ch 5 = f 9 0 2 ++ f 8 0 8 ++ f 7 7 1 ∧
    ch 6 = f 10 0 5 ++ f 9 2 6 ∧ ch 7 = f 11 0 8 ++ f 10 5 3 ∧ ch 8 = f 13 0 3 ++ f 12 0 8 ∧
    ch 9 = f 14 0 6 ++ f 13 3 5 ∧ ch 10 = f 16 0 1 ++ f 15 0 8 ++ f 14 6 2 ∧ ch 11 = f 17 0 4 ++ f 16 1 7 ∧
    ch 12 = f 18 0 7 ++ f 17 4 4 ∧ ch 13 = f 20 0 2 ++ f 19 0 8 ++ f 18 7 1 ∧
    ch 14 = f 21 0 5 ++ f 20 2 6 ∧ ch 15 = f 22 0 8 ++ f 21 5 3

/-- The byte view of R82, with R80 and R83: what each byte of a built frame holds. -/
def Obligations.ByteViewOfTheBuiltFrame : Prop :=
  ∀ (raw : RawChannels) (fl : BitVec 4),
    let c := fun (i lo len : Nat) => (raw.toList.getD i 0).extractLsb' lo len
    (sbusPack raw fl).toList =
      [0x0F, c 0 0 8, c 1 0 5 ++ c 0 8 3, c 2 0 2 ++ c 1 5 6, c 2 2 8, c 3 0 7 ++ c 2 10 1, c 4 0 4 ++ c 3 7 4,
       c 5 0 1 ++ c 4 4 7, c 5 1 8, c 6 0 6 ++ c 5 9 2, c 7 0 3 ++ c 6 6 5, c 7 3 8,
       c 8 0 8, c 9 0 5 ++ c 8 8 3, c 10 0 2 ++ c 9 5 6, c 10 2 8, c 11 0 7 ++ c 10 10 1, c 12 0 4 ++ c 11 7 4,
       c 13 0 1 ++ c 12 4 7, c 13 1 8, c 14 0 6 ++ c 13 9 2, c 15 0 3 ++ c 14 6 5, c 15 3 8, 0#4 ++ fl, 0x00]

/-- R164: packing and unpacking are exact inverses. -/
def Obligations.PackingAndUnpackingAreInverse : Prop :=
  (∀ (raw : RawChannels) (fl : BitVec 4),
    sbusUnpack (sbusPack raw fl) = raw ∧ sbusFlags (sbusPack raw fl) = fl) ∧
  (∀ F : Frame, F[0] = 0x0F → F[23].extractLsb' 4 4 = 0 → F[24] = 0x00 →
    sbusPack (sbusUnpack F) (sbusFlags F) = F)

/-- R126: `to_pwm` is the clamped, exactly computed mapping rounded toward minus infinity, it lies in
[`MIN_PWM`, `MAX_PWM`], and it gives the rule's examples in `EXCFG`. -/
def Obligations.PwmMappingRoundsDownAndClamps : Prop :=
  (∀ (c : Config) (raw : Raw), c.Valid → ∃ q : Int,
    q * c.scaleNum ≤ ((raw.toNat : Int) - 992) * c.scaleDen ∧
    ((raw.toNat : Int) - 992) * c.scaleDen < (q + 1) * c.scaleNum ∧
    ((toPwm c raw).toNat : Int) =
      (if c.ppmCenter + q < c.minPwm then (c.minPwm : Int)
       else if c.maxPwm < c.ppmCenter + q then (c.maxPwm : Int) else c.ppmCenter + q)) ∧
  (∀ (c : Config) (raw : Raw), c.Valid → c.minPwm ≤ (toPwm c raw).toNat ∧ (toPwm c raw).toNat ≤ c.maxPwm) ∧
  [992, 984, 985, 172, 1811, 2047].map (fun n => (toPwm Config.excfg (BitVec.ofNat 11 n)).toNat) =
    [1500, 1495, 1495, 988, 2011, 2012]

/-- R162: `to_raw` is the clamped, exactly computed inverse mapping rounded toward minus infinity, and it gives the rule's
examples in `EXCFG`. -/
def Obligations.RawMappingRoundsDownAndClamps : Prop :=
  (∀ (c : Config) (p : Word), c.Valid → ∃ q : Int,
    q * c.scaleDen ≤ ((p.toNat : Int) - c.ppmCenter) * c.scaleNum ∧
    ((p.toNat : Int) - c.ppmCenter) * c.scaleNum < (q + 1) * c.scaleDen ∧
    ((toRaw c p).toNat : Int) = (if 992 + q < 0 then 0 else if 2047 < 992 + q then 2047 else 992 + q)) ∧
  [1500, 988, 2012, 1499, 0, 65535].map (fun n => (toRaw Config.excfg (BitVec.ofNat 16 n)).toNat) =
    [992, 172, 1811, 990, 0, 2047]

/-- R166: the round trip SENCP, STX, one SRX per sent byte, SPOLL, in a parser that is synchronised on a footer: STX sends
the very bytes that are then received, and each reported PWM value is at or below the input by at most
`ceil(SCALE_DEN / SCALE_NUM)`. -/
def Obligations.PwmRoundTripErrorIsBounded : Prop :=
  ∀ (s : State) (w : Channels) (fl : Byte), s.cfg.Valid → (Instr.sencp w fl).wellFormed = true →
    s.pstate = .seeking → s.prevV = true → isFooter s.prev = true →
    (∀ (k : Nat) (h : k < 16), s.cfg.minPwm ≤ w[k].toNat ∧ w[k].toNat ≤ s.cfg.maxPwm ∧
      0 ≤ 992 + Int.fdiv (((w[k].toNat : Int) - s.cfg.ppmCenter) * s.cfg.scaleNum) s.cfg.scaleDen ∧
      992 + Int.fdiv (((w[k].toNat : Int) - s.cfg.ppmCenter) * s.cfg.scaleNum) s.cfg.scaleDen ≤ 2047) →
    ∃ (F : Frame) (t u : State),
      execAll [.sencp w fl, .stx] s = .next t ∧ t.sbusTx = s.sbusTx ++ F.toList ∧
      execAll (F.toList.map .srx ++ [.spoll]) t = .next u ∧ u.rsp = s.rsp ++ [pollReport s.cfg true F] ∧
      ∀ (k : Nat) (h : k < 16),
        let out := (pwmChannels s.cfg (sbusUnpack F))[k].toNat
        out ≤ w[k].toNat ∧ w[k].toNat - out ≤ (s.cfg.scaleDen + s.cfg.scaleNum - 1) / s.cfg.scaleNum

/-! ### SBUS encoder (41_sbus_encoder.md) -/

/-- R161: SENC writes the packed frame to the front buffer and sets `STXV`, and changes nothing else; what it packs is
its operands, unchanged. Operands out of range are refused, neither truncated nor clamped. -/
def Obligations.SencBuildsTheFrontFrame : Prop :=
  (∀ (w : Channels) (fl : Byte) (rest : List Byte), (Instr.senc w fl).wellFormed = true →
    decode (0x20 :: (w.toList.flatMap le16 ++ fl :: rest)) = .ok (.senc w fl)) ∧
  (∀ (w : Channels) (fl : Byte) (s : State), (Instr.senc w fl).wellFormed = true →
    exec (.senc w fl) s = .next { s with
      stxb := some (sbusPack (w.map fun x => x.setWidth 11) (fl.extractLsb' 0 4)), stxv := true } ∧
    ∃ F : Frame, exec (.senc w fl) s = .next { s with stxb := some F, stxv := true } ∧
      F[0] = 0x0F ∧ F[23] = fl ∧ F[24] = 0x00 ∧
      ∀ (k : Nat) (h : k < 16), ((sbusUnpack F)[k]).setWidth 16 = w[k]) ∧
  (∀ (w : Channels) (fl : Byte) (s : State), (∃ (k : Nat) (h : k < 16), 2047 < w[k].toNat) ∨ fl.extractLsb' 4 4 ≠ 0 →
    exec (.senc w fl) s = .refused (.illFormed s.cmdPos))

/-- R163: SENCP writes the frame of the scaled operands to the front buffer and sets `STXV`, and changes nothing else;
with every word `PPM_CENTER` it builds the frame SENC builds from sixteen times 992. A flag byte out of range is refused. -/
def Obligations.SencpBuildsTheScaledFrontFrame : Prop :=
  (∀ (w : Channels) (fl : Byte) (rest : List Byte), (Instr.sencp w fl).wellFormed = true →
    decode (0x21 :: (w.toList.flatMap le16 ++ fl :: rest)) = .ok (.sencp w fl)) ∧
  (∀ (w : Channels) (fl : Byte) (s : State), fl.extractLsb' 4 4 ≠ 0 →
    exec (.sencp w fl) s = .refused (.illFormed s.cmdPos)) ∧
  (∀ (w : Channels) (fl : Byte) (s : State), (Instr.sencp w fl).wellFormed = true →
    exec (.sencp w fl) s = .next { s with
      stxb := some (sbusPack (w.map (toRaw s.cfg)) (fl.extractLsb' 0 4)), stxv := true } ∧
    ∃ F : Frame, exec (.sencp w fl) s = .next { s with stxb := some F, stxv := true } ∧
      F[0] = 0x0F ∧ F[23] = fl ∧ F[24] = 0x00 ∧
      ∀ (k : Nat) (h : k < 16), (sbusUnpack F)[k] = toRaw s.cfg w[k]) ∧
  (∀ (s : State) (fl : Byte), s.cfg.Valid → (Instr.sencp (Vector.replicate 16 0) fl).wellFormed = true →
    ∃ t, exec (.sencp (Vector.replicate 16 (BitVec.ofNat 16 s.cfg.ppmCenter)) fl) s = .next t ∧
      exec (.senc (Vector.replicate 16 992) fl) s = .next t)

/-- R165: STX sends the 25 bytes of the front buffer, byte 0 first, if it holds a frame, and nothing otherwise; no
register changes. -/
def Obligations.StxSendsTheFrontFrame : Prop :=
  (∀ rest : List Byte, decode (0x22 :: rest) = .ok .stx) ∧
  (∀ (s : State) (F : Frame), s.stxv = true → s.stxb = some F →
    exec .stx s = .next { s with sbusTx := s.sbusTx ++ F.toList }) ∧
  (∀ s : State, s.stxv = false → exec .stx s = .next s)

/-! ### Stuffing and checksum engine (42_stuff_checksum.md) -/

/-- R182: ERST clears the checksum, the cursor and the overflow status, and nothing else. -/
def Obligations.ErstStartsANewUnit : Prop :=
  (∀ rest : List Byte, decode (0x30 :: rest) = .ok .erst) ∧
  ∀ s : State, exec .erst s = .next { s with chk := 0x00, tlen := 0, tovf := false }

/-- R180 and R183: ERAW is `Emit(b)`, a bounded write of one byte: dropped while `TOVF = 1`, written at the cursor while
it fits, and otherwise the unit is dropped. Nothing else changes, no other byte of `TBUF` among it. -/
def Obligations.ErawIsABoundedWrite : Prop :=
  (∀ (b : Byte) (rest : List Byte), decode (0x31 :: b :: rest) = .ok (.eraw b)) ∧
  (∀ (b : Byte) (s : State), s.tovf = true → exec (.eraw b) s = .next s) ∧
  (∀ (b : Byte) (s : State), s.cfg.Valid → s.tbuf.length = s.cfg.lineMax → s.tovf = false →
    s.tlen.toNat < s.cfg.lineMax →
    ∃ t, exec (.eraw b) s = .next t ∧ t = { s with tbuf := t.tbuf, tlen := t.tlen } ∧
      t.tlen.toNat = s.tlen.toNat + 1 ∧ t.tbuf[s.tlen.toNat]? = some b ∧
      ∀ i : Nat, i ≠ s.tlen.toNat → t.tbuf[i]? = s.tbuf[i]?) ∧
  (∀ (b : Byte) (s : State), s.tovf = false → s.cfg.lineMax ≤ s.tlen.toNat →
    exec (.eraw b) s = .next { s with tovf := true, tlen := 0 })

/-- R181 and R184 (with R93): EPUSH XORs the byte into the checksum before stuffing and then emits it raw, 0x7E as
`7D 5E` and 0x7D as `7D 5D`. -/
def Obligations.EpushChecksumsThenStuffs : Prop :=
  (∀ (b : Byte) (rest : List Byte), decode (0x32 :: b :: rest) = .ok (.epush b)) ∧
  ∀ (x : Byte) (s : State), ∃ t, exec (.epush x) s = .next t ∧ t.chk = s.chk ^^^ x ∧
    (x ≠ 0x7E → x ≠ 0x7D → exec (.eraw x) { s with chk := s.chk ^^^ x } = .next t) ∧
    (x = 0x7E → execAll [.eraw 0x7D, .eraw 0x5E] { s with chk := s.chk ^^^ x } = .next t) ∧
    (x = 0x7D → execAll [.eraw 0x7D, .eraw 0x5D] { s with chk := s.chk ^^^ x } = .next t)

/-- R185: ECHK pushes the value `CHK` had before it, and `CHK` becomes 0x00. -/
def Obligations.EchkPushesTheChecksum : Prop :=
  (∀ rest : List Byte, decode (0x33 :: rest) = .ok .echk) ∧
  ∀ s : State, ∃ t, exec .echk s = .next t ∧ t.chk = 0x00 ∧
    (s.chk ≠ 0x7E → s.chk ≠ 0x7D → exec (.eraw s.chk) { s with chk := 0x00 } = .next t) ∧
    (s.chk = 0x7E → execAll [.eraw 0x7D, .eraw 0x5E] { s with chk := 0x00 } = .next t) ∧
    (s.chk = 0x7D → execAll [.eraw 0x7D, .eraw 0x5D] { s with chk := 0x00 } = .next t)

/-- R186: ECMT copies `TBUF[0..TLEN-1]` to the front buffer unless the unit overflowed or is empty; then nothing
changes. -/
def Obligations.EcmtCommitsTheBackBuffer : Prop :=
  (∀ rest : List Byte, decode (0x34 :: rest) = .ok .ecmt) ∧
  (∀ s : State, s.tovf = false → 0 < s.tlen.toNat → s.tlen.toNat ≤ s.cfg.lineMax →
    s.tbuf.length = s.cfg.lineMax → s.tfront.length = s.cfg.lineMax →
    ∃ t, exec .ecmt s = .next t ∧ t = { s with tfront := t.tfront, tflen := s.tlen, tfv := true } ∧
      (∀ i : Nat, i < s.tlen.toNat → t.tfront[i]? = s.tbuf[i]?.map some) ∧
      (∀ i : Nat, s.tlen.toNat ≤ i → t.tfront[i]? = s.tfront[i]?) ∧
      exec .ecmt t = .next t) ∧
  (∀ s : State, s.tovf = true ∨ s.tlen = 0 → exec .ecmt s = .next s)

/-- R187: after ERST and any sequence of EPUSH and ERAW, `CHK` is the XOR of the EPUSH operands, unescaped; ERAW operands
do not contribute. -/
def Obligations.ChecksumIsOverUnstuffedBytes : Prop :=
  ∀ (s : State) (cmds : List Instr), (∀ i ∈ cmds, ∃ b, i = .epush b ∨ i = .eraw b) →
    ∃ t, execAll (.erst :: cmds) s = .next t ∧
      t.chk = cmds.foldl (fun acc i => match i with | .epush b => acc ^^^ b | _ => acc) 0

/-- R188: the framing equivalence, for every sentinel and every payload. -/
def Obligations.EngineSequenceBuildsTheFramedUnit : Prop :=
  ∀ (s : State) (sent : Byte) (payload : List Byte), s.cfg.Valid →
    s.tbuf.length = s.cfg.lineMax → s.tfront.length = s.cfg.lineMax →
    ∃ t, execAll ([.erst, .eraw sent] ++ payload.map .epush ++ [.echk, .eraw sent, .ecmt]) s = .next t ∧
      ((framedUnit sent payload).length ≤ s.cfg.lineMax →
        t.tfv = true ∧ t.tflen.toNat = (framedUnit sent payload).length ∧
        t.tfront.take t.tflen.toNat = (framedUnit sent payload).map some) ∧
      (s.cfg.lineMax < (framedUnit sent payload).length →
        t.tovf = true ∧ t.tlen = 0 ∧ t.tfront = s.tfront ∧ t.tflen = s.tflen ∧ t.tfv = s.tfv)

/-- Overflow persists (60_exceptions.md R234, 10_state.md R34): once a unit has overflowed, every command but ERST, TENC
and RST keeps `TOVF = 1`, `TLEN = 0`, `TBUF` and the front buffer (`TFRONT`, `TFLEN`, `TFV`). Of `CHK` it says nothing:
EPUSH and ECHK still write it (42_stuff_checksum.md R181). -/
def Obligations.OverflowLastsUntilANewUnit : Prop :=
  ∀ (i : Instr) (s t : State), s.tovf = true → s.tlen = 0 → exec i s = .next t →
    (i = .rst ∨ i = .erst ∨ ∃ w, i = .tenc w) ∨
    (t.tovf = true ∧ t.tlen = 0 ∧ t.tbuf = s.tbuf ∧ t.tfront = s.tfront ∧ t.tflen = s.tflen ∧ t.tfv = s.tfv)

/-! ### Trainer encoder (43_trainer_encoder.md, 30_encoding.md section 2) -/

/-- R63: the byte order inside a trainer pair. -/
def Obligations.TrainerPairByteOrder : Prop :=
  ∀ c0 c1 : Word, pack3 c0 c1 =
    [c0.extractLsb' 0 8, c0.extractLsb' 8 4 ++ c1.extractLsb' 4 4, c1.extractLsb' 0 4 ++ c1.extractLsb' 8 4]

/-- R201 and R204: TENC builds exactly the trainer frame and commits it if it fits in `LINE_MAX` bytes; otherwise the unit
is dropped and the front buffer keeps its frame. Every register it leaves alone is named by its absence. -/
def Obligations.TencBuildsAndCommitsTheTrainerFrame : Prop :=
  (∀ (w : Channels) (rest : List Byte), decode (0x40 :: (w.toList.flatMap le16 ++ rest)) = .ok (.tenc w)) ∧
  ∀ (w : Channels) (s : State), s.cfg.Valid → s.tbuf.length = s.cfg.lineMax →
    ((trainerFrame w).length ≤ s.cfg.lineMax →
      exec (.tenc w) s = .next { s with
        chk := 0x00, tovf := false, tlen := BitVec.ofNat 16 (trainerFrame w).length
        tbuf := trainerFrame w ++ s.tbuf.drop (trainerFrame w).length
        tfront := (trainerFrame w).map some ++ s.tfront.drop (trainerFrame w).length
        tflen := BitVec.ofNat 16 (trainerFrame w).length, tfv := true }) ∧
    (s.cfg.lineMax < (trainerFrame w).length →
      exec (.tenc w) s = .next { s with
        chk := 0x00, tovf := true, tlen := 0, tbuf := (trainerFrame w).take s.cfg.lineMax })

/-- R202: TTX sends the committed bytes, byte 0 first, as exactly one notification, if there is a frame, and nothing
otherwise; no register changes. -/
def Obligations.TtxSendsTheCommittedFrame : Prop :=
  (∀ rest : List Byte, decode (0x41 :: rest) = .ok .ttx) ∧
  (∀ (s : State) (frame : List Byte) (beyond : List (Option Byte)), s.tfv = true →
    s.tfront = frame.map some ++ beyond → s.tflen.toNat = frame.length →
    exec .ttx s = .next { s with bleTx := s.bleTx ++ [frame] }) ∧
  (∀ s : State, s.tfv = false → exec .ttx s = .next s)

/-- R94: a trainer frame is `28 + s` bytes long, between 28 and 52; the frame type is never stuffed, and when all 24
packed bytes are, the checksum is not; so `LINE_MAX ≥ 52` keeps TENC from overflowing, and 52 is reached. -/
def Obligations.TrainerFrameLengthBounds : Prop :=
  (∀ w : Channels, (trainerFrame w).length = 28 + stuffedCount w ∧ stuffedCount w ≤ 24 ∧
    28 ≤ (trainerFrame w).length ∧ (trainerFrame w).length ≤ 52) ∧
  stuff 0x80 = [0x80] ∧
  (∀ w : Channels, (packedPairs w).all needsStuffing = true →
    xorAll (packedPairs w) = 0x00 ∨ xorAll (packedPairs w) = 0x03) ∧
  (∃ w : Channels, (trainerFrame w).length = 52) ∧
  (∀ (w : Channels) (s : State), s.cfg.Valid → s.tbuf.length = s.cfg.lineMax → 52 ≤ s.cfg.lineMax →
    ∃ t, exec (.tenc w) s = .next t ∧ t.tovf = false)

/-- R269: the line-length hazard. -/
def Obligations.ShortLinesMakeTencOverflow : Prop :=
  (∀ s : State, s.cfg.Valid → s.tbuf.length = s.cfg.lineMax → s.cfg.lineMax < 52 →
    ∃ w t, exec (.tenc w) s = .next t ∧ t.tovf = true ∧ t.tfront = s.tfront ∧ t.tflen = s.tflen ∧ t.tfv = s.tfv) ∧
  (∀ (w : Channels) (s : State), s.cfg.Valid → s.tbuf.length = s.cfg.lineMax → s.cfg.lineMax < 28 →
    ∃ t, exec (.tenc w) s = .next t ∧ t.tovf = true) ∧
  (∀ (w : Channels) (s : State), s.cfg.Valid → s.tbuf.length = s.cfg.lineMax → 52 ≤ s.cfg.lineMax →
    ∃ t, exec (.tenc w) s = .next t ∧ t.tovf = false ∧ t.tfv = true)

/-- R203: if all eight pairs pack alike, the checksum byte TENC emits is 0x80 (in the frame it commits where it fits). -/
def Obligations.EqualPairsGiveChecksum80 : Prop :=
  ∀ w : Channels, (∀ (k : Nat) (h : k < 8), pack3 w[0] w[1] = pack3 w[2 * k] w[2 * k + 1]) →
    xorAll (trainerPayload w) = 0x80 ∧
    trainerFrame w = [0x7E] ++ (trainerPayload w).flatMap stuff ++ [0x80] ++ [0x7E] ∧
    ∀ s : State, s.cfg.Valid → s.tbuf.length = s.cfg.lineMax → (trainerFrame w).length ≤ s.cfg.lineMax →
      ∃ t, exec (.tenc w) s = .next t ∧
        t.tfront.take t.tflen.toNat = ([0x7E] ++ (trainerPayload w).flatMap stuff ++ [0x80] ++ [0x7E]).map some

/-- A TTX between the commands of a hand-built frame sends the previous committed frame, never the partial one
(70_reset_and_hazards.md R265 item 3): no engine command but ECMT touches what TTX sends. -/
def Obligations.TransmitDuringABuildSendsTheLastCommit : Prop :=
  ∀ (s : State) (cmds : List Instr),
    (∀ i ∈ cmds, i = .erst ∨ i = .echk ∨ ∃ b, i = .eraw b ∨ i = .epush b) →
    ∃ t u v sent, execAll cmds s = .next t ∧ exec .ttx s = .next u ∧ exec .ttx t = .next v ∧
      u.bleTx = s.bleTx ++ sent ∧ v.bleTx = s.bleTx ++ sent

/-! ### The whole machine -/

/-- R236: every admitted command is defined in every state. -/
def Obligations.EveryAdmittedCommandCompletes : Prop :=
  ∀ (i : Instr) (s : State), i.wellFormed = true → ∃ t, exec i s = .next t

/-- 10_state.md R38, the flag table, over all commands: which commands can change each flag, and in which direction. -/
def Obligations.FlagsChangeOnlyAsTheTableSays : Prop :=
  ∀ (i : Instr) (s t : State), exec i s = .next t →
    (s.new = false → t.new = true → ∃ b, i = .srx b) ∧ (s.new = true → t.new = false → i = .spoll ∨ i = .rst) ∧
    (s.lvalid = false → t.lvalid = true → ∃ b, i = .srx b) ∧ (s.lvalid = true → t.lvalid = false → i = .rst) ∧
    (s.prevV = false → t.prevV = true → ∃ b, i = .srx b) ∧ (s.prevV = true → t.prevV = false → i = .rst) ∧
    (s.stxv = false → t.stxv = true → ∃ w fl, i = .senc w fl ∨ i = .sencp w fl) ∧
    (s.stxv = true → t.stxv = false → i = .rst) ∧
    (s.tovf = false → t.tovf = true → i = .echk ∨ (∃ b, i = .eraw b ∨ i = .epush b) ∨ ∃ w, i = .tenc w) ∧
    (s.tovf = true → t.tovf = false → i = .erst ∨ i = .rst ∨ ∃ w, i = .tenc w) ∧
    (s.tfv = false → t.tfv = true → i = .ecmt ∨ ∃ w, i = .tenc w) ∧ (s.tfv = true → t.tfv = false → i = .rst)

/-- The buffers' writers (20_memory.md R60, R69; 10_state.md R35 for `TFLEN`): a front buffer is written only by a finished
encode or a commit, the back buffer only by the engine, the parser's buffers only by SRX; and RST resets each
(44_control.md R220). -/
def Obligations.BuffersHaveOnlyTheirWriters : Prop :=
  ∀ (i : Instr) (s t : State), exec i s = .next t →
    (t.stxb ≠ s.stxb → i = .rst ∨ ∃ w fl, i = .senc w fl ∨ i = .sencp w fl) ∧
    (t.tfront ≠ s.tfront ∨ t.tflen ≠ s.tflen → i = .rst ∨ i = .ecmt ∨ ∃ w, i = .tenc w) ∧
    (t.tbuf ≠ s.tbuf → i = .rst ∨ i = .echk ∨ (∃ b, i = .eraw b ∨ i = .epush b) ∨ ∃ w, i = .tenc w) ∧
    (t.pbuf ≠ s.pbuf ∨ t.lframe ≠ s.lframe → i = .rst ∨ ∃ b, i = .srx b)

/-- The ports: output already sent is never withdrawn (70_reset_and_hazards.md R262), and each output port has its own
commands (00_scope.md R6, 30_encoding.md R107: "No other command writes RSP"). -/
def Obligations.OutputIsNeverWithdrawn : Prop :=
  ∀ (i : Instr) (s t : State), exec i s = .next t →
    s.sbusTx <+: t.sbusTx ∧ s.bleTx <+: t.bleTx ∧ s.rsp <+: t.rsp ∧
    (t.sbusTx ≠ s.sbusTx → i = .stx) ∧ (t.bleTx ≠ s.bleTx → i = .ttx) ∧ (t.rsp ≠ s.rsp → i = .stat ∨ i = .spoll)

/-- No command changes the parameters (10_state.md R37), nor the input that is still pending (the model's reading of RST,
log entry 10). -/
def Obligations.CommandsKeepParametersAndPendingInput : Prop :=
  ∀ (i : Instr) (s t : State), exec i s = .next t →
    t.cfg = s.cfg ∧ t.cmdIn = s.cmdIn ∧ t.cmdPos = s.cmdPos ∧ t.sbusRx = s.sbusRx ∧ t.acceptOrder = s.acceptOrder

/-- Reception and transmission do not meet: SRX "never touches the SBUS encoder or the trainer state"
(40_sbus_decoder.md R121), so its order against any encoder, engine or transmit command does not matter. -/
def Obligations.ReceptionCommutesWithTransmission : Prop :=
  ∀ (b : Byte) (i : Instr) (s : State), i.wellFormed = true →
    i ≠ .rst → i ≠ .stat → i ≠ .spoll → (∀ c, i ≠ .srx c) →
    ∃ t, execAll [.srx b, i] s = .next t ∧ execAll [i, .srx b] s = .next t

/-- The invariant (R40, the ranges and buffer sizes of 10_state.md, the constraints of 00_scope.md R8) holds after reset
in every admitted configuration. -/
def Obligations.InvariantHoldsAtReset : Prop :=
  ∀ c : Config, c.Valid → (State.resetWith c).Inv

/-- Every step from a state that meets the invariant, reached or not, keeps it. -/
def Obligations.InvariantIsKeptByEveryStep : Prop :=
  ∀ s t : State, s.Inv → step s = .next t → t.Inv

/-- R40: its nine invariants hold in every state reachable from reset, in every admitted configuration, for every command
stream, every received byte sequence and every interleaving. -/
def Obligations.InvariantsOfR40HoldInEveryReachableState : Prop :=
  ∀ (c : Config) (cmds rx : List Byte) (order : List Agent) (k : Nat) (t : State), c.Valid →
    Host.Core.run core k { State.resetWith c with cmdIn := cmds, sbusRx := rx, acceptOrder := order } = .next t →
    t.R40

/-- The bytes no rule reads are never observed (10_state.md R24, R32; 93_implementation_defined.md I5): two states that
differ only in `PBUF` at or beyond `CNT` and `TBUF` at or beyond `TLEN` run alike, for any number of steps: the same ports,
the same registers, the same stop. -/
def Obligations.UnreadBytesAreNeverObserved : Prop :=
  ∀ (k : Nat) (s t : State), s.SameButUnread t →
    outcomesAgree (Host.Core.run core k s) (Host.Core.run core k t)
end

