-- ==== Sys2Proof/Laws/State.lean ====
section
/-! SUPPORT. One lemma per field per update, true by `rfl`: no later proof unfolds a record update. -/

namespace Sys2Proof.Machine

/-! `respond` changes RSP only. -/

@[simp] theorem respond_pstate (bytes : List Byte) (s : State) : (respond bytes s).pstate = s.pstate := rfl
@[simp] theorem respond_cnt (bytes : List Byte) (s : State) : (respond bytes s).cnt = s.cnt := rfl
@[simp] theorem respond_pbuf (bytes : List Byte) (s : State) : (respond bytes s).pbuf = s.pbuf := rfl
@[simp] theorem respond_prev (bytes : List Byte) (s : State) : (respond bytes s).prev = s.prev := rfl
@[simp] theorem respond_prevV (bytes : List Byte) (s : State) : (respond bytes s).prevV = s.prevV := rfl
@[simp] theorem respond_lframe (bytes : List Byte) (s : State) : (respond bytes s).lframe = s.lframe := rfl
@[simp] theorem respond_lvalid (bytes : List Byte) (s : State) : (respond bytes s).lvalid = s.lvalid := rfl
@[simp] theorem respond_new (bytes : List Byte) (s : State) : (respond bytes s).new = s.new := rfl
@[simp] theorem respond_errcnt (bytes : List Byte) (s : State) : (respond bytes s).errcnt = s.errcnt := rfl
@[simp] theorem respond_stxb (bytes : List Byte) (s : State) : (respond bytes s).stxb = s.stxb := rfl
@[simp] theorem respond_stxv (bytes : List Byte) (s : State) : (respond bytes s).stxv = s.stxv := rfl
@[simp] theorem respond_chk (bytes : List Byte) (s : State) : (respond bytes s).chk = s.chk := rfl
@[simp] theorem respond_tbuf (bytes : List Byte) (s : State) : (respond bytes s).tbuf = s.tbuf := rfl
@[simp] theorem respond_tlen (bytes : List Byte) (s : State) : (respond bytes s).tlen = s.tlen := rfl
@[simp] theorem respond_tovf (bytes : List Byte) (s : State) : (respond bytes s).tovf = s.tovf := rfl
@[simp] theorem respond_tfront (bytes : List Byte) (s : State) : (respond bytes s).tfront = s.tfront := rfl
@[simp] theorem respond_tflen (bytes : List Byte) (s : State) : (respond bytes s).tflen = s.tflen := rfl
@[simp] theorem respond_tfv (bytes : List Byte) (s : State) : (respond bytes s).tfv = s.tfv := rfl
@[simp] theorem respond_sbusTx (bytes : List Byte) (s : State) : (respond bytes s).sbusTx = s.sbusTx := rfl
@[simp] theorem respond_bleTx (bytes : List Byte) (s : State) : (respond bytes s).bleTx = s.bleTx := rfl
@[simp] theorem respond_rsp (bytes : List Byte) (s : State) : (respond bytes s).rsp = s.rsp ++ [bytes] := rfl
@[simp] theorem respond_cmdIn (bytes : List Byte) (s : State) : (respond bytes s).cmdIn = s.cmdIn := rfl
@[simp] theorem respond_cmdPos (bytes : List Byte) (s : State) : (respond bytes s).cmdPos = s.cmdPos := rfl
@[simp] theorem respond_sbusRx (bytes : List Byte) (s : State) : (respond bytes s).sbusRx = s.sbusRx := rfl
@[simp] theorem respond_acceptOrder (bytes : List Byte) (s : State) : (respond bytes s).acceptOrder = s.acceptOrder := rfl
@[simp] theorem respond_cfg (bytes : List Byte) (s : State) : (respond bytes s).cfg = s.cfg := rfl

/-! `sbusSend` changes SBUS_TX only. -/

@[simp] theorem sbusSend_pstate (bytes : List Byte) (s : State) : (sbusSend bytes s).pstate = s.pstate := rfl
@[simp] theorem sbusSend_cnt (bytes : List Byte) (s : State) : (sbusSend bytes s).cnt = s.cnt := rfl
@[simp] theorem sbusSend_pbuf (bytes : List Byte) (s : State) : (sbusSend bytes s).pbuf = s.pbuf := rfl
@[simp] theorem sbusSend_prev (bytes : List Byte) (s : State) : (sbusSend bytes s).prev = s.prev := rfl
@[simp] theorem sbusSend_prevV (bytes : List Byte) (s : State) : (sbusSend bytes s).prevV = s.prevV := rfl
@[simp] theorem sbusSend_lframe (bytes : List Byte) (s : State) : (sbusSend bytes s).lframe = s.lframe := rfl
@[simp] theorem sbusSend_lvalid (bytes : List Byte) (s : State) : (sbusSend bytes s).lvalid = s.lvalid := rfl
@[simp] theorem sbusSend_new (bytes : List Byte) (s : State) : (sbusSend bytes s).new = s.new := rfl
@[simp] theorem sbusSend_errcnt (bytes : List Byte) (s : State) : (sbusSend bytes s).errcnt = s.errcnt := rfl
@[simp] theorem sbusSend_stxb (bytes : List Byte) (s : State) : (sbusSend bytes s).stxb = s.stxb := rfl
@[simp] theorem sbusSend_stxv (bytes : List Byte) (s : State) : (sbusSend bytes s).stxv = s.stxv := rfl
@[simp] theorem sbusSend_chk (bytes : List Byte) (s : State) : (sbusSend bytes s).chk = s.chk := rfl
@[simp] theorem sbusSend_tbuf (bytes : List Byte) (s : State) : (sbusSend bytes s).tbuf = s.tbuf := rfl
@[simp] theorem sbusSend_tlen (bytes : List Byte) (s : State) : (sbusSend bytes s).tlen = s.tlen := rfl
@[simp] theorem sbusSend_tovf (bytes : List Byte) (s : State) : (sbusSend bytes s).tovf = s.tovf := rfl
@[simp] theorem sbusSend_tfront (bytes : List Byte) (s : State) : (sbusSend bytes s).tfront = s.tfront := rfl
@[simp] theorem sbusSend_tflen (bytes : List Byte) (s : State) : (sbusSend bytes s).tflen = s.tflen := rfl
@[simp] theorem sbusSend_tfv (bytes : List Byte) (s : State) : (sbusSend bytes s).tfv = s.tfv := rfl
@[simp] theorem sbusSend_sbusTx (bytes : List Byte) (s : State) : (sbusSend bytes s).sbusTx = s.sbusTx ++ bytes := rfl
@[simp] theorem sbusSend_bleTx (bytes : List Byte) (s : State) : (sbusSend bytes s).bleTx = s.bleTx := rfl
@[simp] theorem sbusSend_rsp (bytes : List Byte) (s : State) : (sbusSend bytes s).rsp = s.rsp := rfl
@[simp] theorem sbusSend_cmdIn (bytes : List Byte) (s : State) : (sbusSend bytes s).cmdIn = s.cmdIn := rfl
@[simp] theorem sbusSend_cmdPos (bytes : List Byte) (s : State) : (sbusSend bytes s).cmdPos = s.cmdPos := rfl
@[simp] theorem sbusSend_sbusRx (bytes : List Byte) (s : State) : (sbusSend bytes s).sbusRx = s.sbusRx := rfl
@[simp] theorem sbusSend_acceptOrder (bytes : List Byte) (s : State) : (sbusSend bytes s).acceptOrder = s.acceptOrder := rfl
@[simp] theorem sbusSend_cfg (bytes : List Byte) (s : State) : (sbusSend bytes s).cfg = s.cfg := rfl

/-! `bleNotify` changes BLE_TX only. -/

@[simp] theorem bleNotify_pstate (bytes : List Byte) (s : State) : (bleNotify bytes s).pstate = s.pstate := rfl
@[simp] theorem bleNotify_cnt (bytes : List Byte) (s : State) : (bleNotify bytes s).cnt = s.cnt := rfl
@[simp] theorem bleNotify_pbuf (bytes : List Byte) (s : State) : (bleNotify bytes s).pbuf = s.pbuf := rfl
@[simp] theorem bleNotify_prev (bytes : List Byte) (s : State) : (bleNotify bytes s).prev = s.prev := rfl
@[simp] theorem bleNotify_prevV (bytes : List Byte) (s : State) : (bleNotify bytes s).prevV = s.prevV := rfl
@[simp] theorem bleNotify_lframe (bytes : List Byte) (s : State) : (bleNotify bytes s).lframe = s.lframe := rfl
@[simp] theorem bleNotify_lvalid (bytes : List Byte) (s : State) : (bleNotify bytes s).lvalid = s.lvalid := rfl
@[simp] theorem bleNotify_new (bytes : List Byte) (s : State) : (bleNotify bytes s).new = s.new := rfl
@[simp] theorem bleNotify_errcnt (bytes : List Byte) (s : State) : (bleNotify bytes s).errcnt = s.errcnt := rfl
@[simp] theorem bleNotify_stxb (bytes : List Byte) (s : State) : (bleNotify bytes s).stxb = s.stxb := rfl
@[simp] theorem bleNotify_stxv (bytes : List Byte) (s : State) : (bleNotify bytes s).stxv = s.stxv := rfl
@[simp] theorem bleNotify_chk (bytes : List Byte) (s : State) : (bleNotify bytes s).chk = s.chk := rfl
@[simp] theorem bleNotify_tbuf (bytes : List Byte) (s : State) : (bleNotify bytes s).tbuf = s.tbuf := rfl
@[simp] theorem bleNotify_tlen (bytes : List Byte) (s : State) : (bleNotify bytes s).tlen = s.tlen := rfl
@[simp] theorem bleNotify_tovf (bytes : List Byte) (s : State) : (bleNotify bytes s).tovf = s.tovf := rfl
@[simp] theorem bleNotify_tfront (bytes : List Byte) (s : State) : (bleNotify bytes s).tfront = s.tfront := rfl
@[simp] theorem bleNotify_tflen (bytes : List Byte) (s : State) : (bleNotify bytes s).tflen = s.tflen := rfl
@[simp] theorem bleNotify_tfv (bytes : List Byte) (s : State) : (bleNotify bytes s).tfv = s.tfv := rfl
@[simp] theorem bleNotify_sbusTx (bytes : List Byte) (s : State) : (bleNotify bytes s).sbusTx = s.sbusTx := rfl
@[simp] theorem bleNotify_bleTx (bytes : List Byte) (s : State) : (bleNotify bytes s).bleTx = s.bleTx ++ [bytes] := rfl
@[simp] theorem bleNotify_rsp (bytes : List Byte) (s : State) : (bleNotify bytes s).rsp = s.rsp := rfl
@[simp] theorem bleNotify_cmdIn (bytes : List Byte) (s : State) : (bleNotify bytes s).cmdIn = s.cmdIn := rfl
@[simp] theorem bleNotify_cmdPos (bytes : List Byte) (s : State) : (bleNotify bytes s).cmdPos = s.cmdPos := rfl
@[simp] theorem bleNotify_sbusRx (bytes : List Byte) (s : State) : (bleNotify bytes s).sbusRx = s.sbusRx := rfl
@[simp] theorem bleNotify_acceptOrder (bytes : List Byte) (s : State) : (bleNotify bytes s).acceptOrder = s.acceptOrder := rfl
@[simp] theorem bleNotify_cfg (bytes : List Byte) (s : State) : (bleNotify bytes s).cfg = s.cfg := rfl

/-! `resetRegisters` writes every register and no port. -/

@[simp] theorem resetRegisters_pstate (s : State) : (resetRegisters s).pstate = .seeking := rfl
@[simp] theorem resetRegisters_cnt (s : State) : (resetRegisters s).cnt = 0 := rfl
@[simp] theorem resetRegisters_pbuf (s : State) : (resetRegisters s).pbuf =
    Vector.ofFn fun i : Fin 25 => Config.unspecifiedByte s.cmdPos i.val := rfl
@[simp] theorem resetRegisters_prev (s : State) : (resetRegisters s).prev = 0x00 := rfl
@[simp] theorem resetRegisters_prevV (s : State) : (resetRegisters s).prevV = false := rfl
@[simp] theorem resetRegisters_lframe (s : State) : (resetRegisters s).lframe = none := rfl
@[simp] theorem resetRegisters_lvalid (s : State) : (resetRegisters s).lvalid = false := rfl
@[simp] theorem resetRegisters_new (s : State) : (resetRegisters s).new = false := rfl
@[simp] theorem resetRegisters_errcnt (s : State) : (resetRegisters s).errcnt = 0 := rfl
@[simp] theorem resetRegisters_stxb (s : State) : (resetRegisters s).stxb = none := rfl
@[simp] theorem resetRegisters_stxv (s : State) : (resetRegisters s).stxv = false := rfl
@[simp] theorem resetRegisters_chk (s : State) : (resetRegisters s).chk = 0x00 := rfl
@[simp] theorem resetRegisters_tbuf (s : State) : (resetRegisters s).tbuf =
    (List.range s.cfg.lineMax).map fun i => Config.unspecifiedByte s.cmdPos (25 + i) := rfl
@[simp] theorem resetRegisters_tlen (s : State) : (resetRegisters s).tlen = 0 := rfl
@[simp] theorem resetRegisters_tovf (s : State) : (resetRegisters s).tovf = false := rfl
@[simp] theorem resetRegisters_tfront (s : State) : (resetRegisters s).tfront = List.replicate s.cfg.lineMax none := rfl
@[simp] theorem resetRegisters_tflen (s : State) : (resetRegisters s).tflen = 0 := rfl
@[simp] theorem resetRegisters_tfv (s : State) : (resetRegisters s).tfv = false := rfl
@[simp] theorem resetRegisters_sbusTx (s : State) : (resetRegisters s).sbusTx = s.sbusTx := rfl
@[simp] theorem resetRegisters_bleTx (s : State) : (resetRegisters s).bleTx = s.bleTx := rfl
@[simp] theorem resetRegisters_rsp (s : State) : (resetRegisters s).rsp = s.rsp := rfl
@[simp] theorem resetRegisters_cmdIn (s : State) : (resetRegisters s).cmdIn = s.cmdIn := rfl
@[simp] theorem resetRegisters_cmdPos (s : State) : (resetRegisters s).cmdPos = s.cmdPos := rfl
@[simp] theorem resetRegisters_sbusRx (s : State) : (resetRegisters s).sbusRx = s.sbusRx := rfl
@[simp] theorem resetRegisters_acceptOrder (s : State) : (resetRegisters s).acceptOrder = s.acceptOrder := rfl
@[simp] theorem resetRegisters_cfg (s : State) : (resetRegisters s).cfg = s.cfg := rfl

/-! `startFrame`. -/

@[simp] theorem startFrame_pstate (b : Byte) (s : State) : (startFrame b s).pstate = .filling := rfl
@[simp] theorem startFrame_cnt (b : Byte) (s : State) : (startFrame b s).cnt = 1 := rfl
@[simp] theorem startFrame_pbuf (b : Byte) (s : State) : (startFrame b s).pbuf = s.pbuf.set 0 b := rfl
@[simp] theorem startFrame_prev (b : Byte) (s : State) : (startFrame b s).prev = s.prev := rfl
@[simp] theorem startFrame_prevV (b : Byte) (s : State) : (startFrame b s).prevV = s.prevV := rfl
@[simp] theorem startFrame_lframe (b : Byte) (s : State) : (startFrame b s).lframe = s.lframe := rfl
@[simp] theorem startFrame_lvalid (b : Byte) (s : State) : (startFrame b s).lvalid = s.lvalid := rfl
@[simp] theorem startFrame_new (b : Byte) (s : State) : (startFrame b s).new = s.new := rfl
@[simp] theorem startFrame_errcnt (b : Byte) (s : State) : (startFrame b s).errcnt = s.errcnt := rfl
@[simp] theorem startFrame_stxb (b : Byte) (s : State) : (startFrame b s).stxb = s.stxb := rfl
@[simp] theorem startFrame_stxv (b : Byte) (s : State) : (startFrame b s).stxv = s.stxv := rfl
@[simp] theorem startFrame_chk (b : Byte) (s : State) : (startFrame b s).chk = s.chk := rfl
@[simp] theorem startFrame_tbuf (b : Byte) (s : State) : (startFrame b s).tbuf = s.tbuf := rfl
@[simp] theorem startFrame_tlen (b : Byte) (s : State) : (startFrame b s).tlen = s.tlen := rfl
@[simp] theorem startFrame_tovf (b : Byte) (s : State) : (startFrame b s).tovf = s.tovf := rfl
@[simp] theorem startFrame_tfront (b : Byte) (s : State) : (startFrame b s).tfront = s.tfront := rfl
@[simp] theorem startFrame_tflen (b : Byte) (s : State) : (startFrame b s).tflen = s.tflen := rfl
@[simp] theorem startFrame_tfv (b : Byte) (s : State) : (startFrame b s).tfv = s.tfv := rfl
@[simp] theorem startFrame_sbusTx (b : Byte) (s : State) : (startFrame b s).sbusTx = s.sbusTx := rfl
@[simp] theorem startFrame_bleTx (b : Byte) (s : State) : (startFrame b s).bleTx = s.bleTx := rfl
@[simp] theorem startFrame_rsp (b : Byte) (s : State) : (startFrame b s).rsp = s.rsp := rfl
@[simp] theorem startFrame_cmdIn (b : Byte) (s : State) : (startFrame b s).cmdIn = s.cmdIn := rfl
@[simp] theorem startFrame_cmdPos (b : Byte) (s : State) : (startFrame b s).cmdPos = s.cmdPos := rfl
@[simp] theorem startFrame_sbusRx (b : Byte) (s : State) : (startFrame b s).sbusRx = s.sbusRx := rfl
@[simp] theorem startFrame_acceptOrder (b : Byte) (s : State) : (startFrame b s).acceptOrder = s.acceptOrder := rfl
@[simp] theorem startFrame_cfg (b : Byte) (s : State) : (startFrame b s).cfg = s.cfg := rfl

/-! `deliverFrame`. -/

@[simp] theorem deliverFrame_pstate (F : Frame) (s : State) : (deliverFrame F s).pstate = s.pstate := rfl
@[simp] theorem deliverFrame_cnt (F : Frame) (s : State) : (deliverFrame F s).cnt = s.cnt := rfl
@[simp] theorem deliverFrame_pbuf (F : Frame) (s : State) : (deliverFrame F s).pbuf = s.pbuf := rfl
@[simp] theorem deliverFrame_prev (F : Frame) (s : State) : (deliverFrame F s).prev = s.prev := rfl
@[simp] theorem deliverFrame_prevV (F : Frame) (s : State) : (deliverFrame F s).prevV = s.prevV := rfl
@[simp] theorem deliverFrame_lframe (F : Frame) (s : State) : (deliverFrame F s).lframe = some F := rfl
@[simp] theorem deliverFrame_lvalid (F : Frame) (s : State) : (deliverFrame F s).lvalid = true := rfl
@[simp] theorem deliverFrame_new (F : Frame) (s : State) : (deliverFrame F s).new = true := rfl
@[simp] theorem deliverFrame_errcnt (F : Frame) (s : State) : (deliverFrame F s).errcnt = s.errcnt := rfl
@[simp] theorem deliverFrame_stxb (F : Frame) (s : State) : (deliverFrame F s).stxb = s.stxb := rfl
@[simp] theorem deliverFrame_stxv (F : Frame) (s : State) : (deliverFrame F s).stxv = s.stxv := rfl
@[simp] theorem deliverFrame_chk (F : Frame) (s : State) : (deliverFrame F s).chk = s.chk := rfl
@[simp] theorem deliverFrame_tbuf (F : Frame) (s : State) : (deliverFrame F s).tbuf = s.tbuf := rfl
@[simp] theorem deliverFrame_tlen (F : Frame) (s : State) : (deliverFrame F s).tlen = s.tlen := rfl
@[simp] theorem deliverFrame_tovf (F : Frame) (s : State) : (deliverFrame F s).tovf = s.tovf := rfl
@[simp] theorem deliverFrame_tfront (F : Frame) (s : State) : (deliverFrame F s).tfront = s.tfront := rfl
@[simp] theorem deliverFrame_tflen (F : Frame) (s : State) : (deliverFrame F s).tflen = s.tflen := rfl
@[simp] theorem deliverFrame_tfv (F : Frame) (s : State) : (deliverFrame F s).tfv = s.tfv := rfl
@[simp] theorem deliverFrame_sbusTx (F : Frame) (s : State) : (deliverFrame F s).sbusTx = s.sbusTx := rfl
@[simp] theorem deliverFrame_bleTx (F : Frame) (s : State) : (deliverFrame F s).bleTx = s.bleTx := rfl
@[simp] theorem deliverFrame_rsp (F : Frame) (s : State) : (deliverFrame F s).rsp = s.rsp := rfl
@[simp] theorem deliverFrame_cmdIn (F : Frame) (s : State) : (deliverFrame F s).cmdIn = s.cmdIn := rfl
@[simp] theorem deliverFrame_cmdPos (F : Frame) (s : State) : (deliverFrame F s).cmdPos = s.cmdPos := rfl
@[simp] theorem deliverFrame_sbusRx (F : Frame) (s : State) : (deliverFrame F s).sbusRx = s.sbusRx := rfl
@[simp] theorem deliverFrame_acceptOrder (F : Frame) (s : State) : (deliverFrame F s).acceptOrder = s.acceptOrder := rfl
@[simp] theorem deliverFrame_cfg (F : Frame) (s : State) : (deliverFrame F s).cfg = s.cfg := rfl

/-! `frameError` changes `ERRCNT` only. -/

@[simp] theorem frameError_pstate (s : State) : (frameError s).pstate = s.pstate := rfl
@[simp] theorem frameError_cnt (s : State) : (frameError s).cnt = s.cnt := rfl
@[simp] theorem frameError_pbuf (s : State) : (frameError s).pbuf = s.pbuf := rfl
@[simp] theorem frameError_prev (s : State) : (frameError s).prev = s.prev := rfl
@[simp] theorem frameError_prevV (s : State) : (frameError s).prevV = s.prevV := rfl
@[simp] theorem frameError_lframe (s : State) : (frameError s).lframe = s.lframe := rfl
@[simp] theorem frameError_lvalid (s : State) : (frameError s).lvalid = s.lvalid := rfl
@[simp] theorem frameError_new (s : State) : (frameError s).new = s.new := rfl
@[simp] theorem frameError_errcnt (s : State) : (frameError s).errcnt = s.errcnt + 1 := rfl
@[simp] theorem frameError_stxb (s : State) : (frameError s).stxb = s.stxb := rfl
@[simp] theorem frameError_stxv (s : State) : (frameError s).stxv = s.stxv := rfl
@[simp] theorem frameError_chk (s : State) : (frameError s).chk = s.chk := rfl
@[simp] theorem frameError_tbuf (s : State) : (frameError s).tbuf = s.tbuf := rfl
@[simp] theorem frameError_tlen (s : State) : (frameError s).tlen = s.tlen := rfl
@[simp] theorem frameError_tovf (s : State) : (frameError s).tovf = s.tovf := rfl
@[simp] theorem frameError_tfront (s : State) : (frameError s).tfront = s.tfront := rfl
@[simp] theorem frameError_tflen (s : State) : (frameError s).tflen = s.tflen := rfl
@[simp] theorem frameError_tfv (s : State) : (frameError s).tfv = s.tfv := rfl
@[simp] theorem frameError_sbusTx (s : State) : (frameError s).sbusTx = s.sbusTx := rfl
@[simp] theorem frameError_bleTx (s : State) : (frameError s).bleTx = s.bleTx := rfl
@[simp] theorem frameError_rsp (s : State) : (frameError s).rsp = s.rsp := rfl
@[simp] theorem frameError_cmdIn (s : State) : (frameError s).cmdIn = s.cmdIn := rfl
@[simp] theorem frameError_cmdPos (s : State) : (frameError s).cmdPos = s.cmdPos := rfl
@[simp] theorem frameError_sbusRx (s : State) : (frameError s).sbusRx = s.sbusRx := rfl
@[simp] theorem frameError_acceptOrder (s : State) : (frameError s).acceptOrder = s.acceptOrder := rfl
@[simp] theorem frameError_cfg (s : State) : (frameError s).cfg = s.cfg := rfl

/-! `notePrevious` changes `PREV` and `PREV_V` only. -/

@[simp] theorem notePrevious_pstate (b : Byte) (s : State) : (notePrevious b s).pstate = s.pstate := rfl
@[simp] theorem notePrevious_cnt (b : Byte) (s : State) : (notePrevious b s).cnt = s.cnt := rfl
@[simp] theorem notePrevious_pbuf (b : Byte) (s : State) : (notePrevious b s).pbuf = s.pbuf := rfl
@[simp] theorem notePrevious_prev (b : Byte) (s : State) : (notePrevious b s).prev = b := rfl
@[simp] theorem notePrevious_prevV (b : Byte) (s : State) : (notePrevious b s).prevV = true := rfl
@[simp] theorem notePrevious_lframe (b : Byte) (s : State) : (notePrevious b s).lframe = s.lframe := rfl
@[simp] theorem notePrevious_lvalid (b : Byte) (s : State) : (notePrevious b s).lvalid = s.lvalid := rfl
@[simp] theorem notePrevious_new (b : Byte) (s : State) : (notePrevious b s).new = s.new := rfl
@[simp] theorem notePrevious_errcnt (b : Byte) (s : State) : (notePrevious b s).errcnt = s.errcnt := rfl
@[simp] theorem notePrevious_stxb (b : Byte) (s : State) : (notePrevious b s).stxb = s.stxb := rfl
@[simp] theorem notePrevious_stxv (b : Byte) (s : State) : (notePrevious b s).stxv = s.stxv := rfl
@[simp] theorem notePrevious_chk (b : Byte) (s : State) : (notePrevious b s).chk = s.chk := rfl
@[simp] theorem notePrevious_tbuf (b : Byte) (s : State) : (notePrevious b s).tbuf = s.tbuf := rfl
@[simp] theorem notePrevious_tlen (b : Byte) (s : State) : (notePrevious b s).tlen = s.tlen := rfl
@[simp] theorem notePrevious_tovf (b : Byte) (s : State) : (notePrevious b s).tovf = s.tovf := rfl
@[simp] theorem notePrevious_tfront (b : Byte) (s : State) : (notePrevious b s).tfront = s.tfront := rfl
@[simp] theorem notePrevious_tflen (b : Byte) (s : State) : (notePrevious b s).tflen = s.tflen := rfl
@[simp] theorem notePrevious_tfv (b : Byte) (s : State) : (notePrevious b s).tfv = s.tfv := rfl
@[simp] theorem notePrevious_sbusTx (b : Byte) (s : State) : (notePrevious b s).sbusTx = s.sbusTx := rfl
@[simp] theorem notePrevious_bleTx (b : Byte) (s : State) : (notePrevious b s).bleTx = s.bleTx := rfl
@[simp] theorem notePrevious_rsp (b : Byte) (s : State) : (notePrevious b s).rsp = s.rsp := rfl
@[simp] theorem notePrevious_cmdIn (b : Byte) (s : State) : (notePrevious b s).cmdIn = s.cmdIn := rfl
@[simp] theorem notePrevious_cmdPos (b : Byte) (s : State) : (notePrevious b s).cmdPos = s.cmdPos := rfl
@[simp] theorem notePrevious_sbusRx (b : Byte) (s : State) : (notePrevious b s).sbusRx = s.sbusRx := rfl
@[simp] theorem notePrevious_acceptOrder (b : Byte) (s : State) : (notePrevious b s).acceptOrder = s.acceptOrder := rfl
@[simp] theorem notePrevious_cfg (b : Byte) (s : State) : (notePrevious b s).cfg = s.cfg := rfl

/-! `storeFrontFrame` changes `STXB` and `STXV` only. -/

@[simp] theorem storeFrontFrame_pstate (F : Frame) (s : State) : (storeFrontFrame F s).pstate = s.pstate := rfl
@[simp] theorem storeFrontFrame_cnt (F : Frame) (s : State) : (storeFrontFrame F s).cnt = s.cnt := rfl
@[simp] theorem storeFrontFrame_pbuf (F : Frame) (s : State) : (storeFrontFrame F s).pbuf = s.pbuf := rfl
@[simp] theorem storeFrontFrame_prev (F : Frame) (s : State) : (storeFrontFrame F s).prev = s.prev := rfl
@[simp] theorem storeFrontFrame_prevV (F : Frame) (s : State) : (storeFrontFrame F s).prevV = s.prevV := rfl
@[simp] theorem storeFrontFrame_lframe (F : Frame) (s : State) : (storeFrontFrame F s).lframe = s.lframe := rfl
@[simp] theorem storeFrontFrame_lvalid (F : Frame) (s : State) : (storeFrontFrame F s).lvalid = s.lvalid := rfl
@[simp] theorem storeFrontFrame_new (F : Frame) (s : State) : (storeFrontFrame F s).new = s.new := rfl
@[simp] theorem storeFrontFrame_errcnt (F : Frame) (s : State) : (storeFrontFrame F s).errcnt = s.errcnt := rfl
@[simp] theorem storeFrontFrame_stxb (F : Frame) (s : State) : (storeFrontFrame F s).stxb = some F := rfl
@[simp] theorem storeFrontFrame_stxv (F : Frame) (s : State) : (storeFrontFrame F s).stxv = true := rfl
@[simp] theorem storeFrontFrame_chk (F : Frame) (s : State) : (storeFrontFrame F s).chk = s.chk := rfl
@[simp] theorem storeFrontFrame_tbuf (F : Frame) (s : State) : (storeFrontFrame F s).tbuf = s.tbuf := rfl
@[simp] theorem storeFrontFrame_tlen (F : Frame) (s : State) : (storeFrontFrame F s).tlen = s.tlen := rfl
@[simp] theorem storeFrontFrame_tovf (F : Frame) (s : State) : (storeFrontFrame F s).tovf = s.tovf := rfl
@[simp] theorem storeFrontFrame_tfront (F : Frame) (s : State) : (storeFrontFrame F s).tfront = s.tfront := rfl
@[simp] theorem storeFrontFrame_tflen (F : Frame) (s : State) : (storeFrontFrame F s).tflen = s.tflen := rfl
@[simp] theorem storeFrontFrame_tfv (F : Frame) (s : State) : (storeFrontFrame F s).tfv = s.tfv := rfl
@[simp] theorem storeFrontFrame_sbusTx (F : Frame) (s : State) : (storeFrontFrame F s).sbusTx = s.sbusTx := rfl
@[simp] theorem storeFrontFrame_bleTx (F : Frame) (s : State) : (storeFrontFrame F s).bleTx = s.bleTx := rfl
@[simp] theorem storeFrontFrame_rsp (F : Frame) (s : State) : (storeFrontFrame F s).rsp = s.rsp := rfl
@[simp] theorem storeFrontFrame_cmdIn (F : Frame) (s : State) : (storeFrontFrame F s).cmdIn = s.cmdIn := rfl
@[simp] theorem storeFrontFrame_cmdPos (F : Frame) (s : State) : (storeFrontFrame F s).cmdPos = s.cmdPos := rfl
@[simp] theorem storeFrontFrame_sbusRx (F : Frame) (s : State) : (storeFrontFrame F s).sbusRx = s.sbusRx := rfl
@[simp] theorem storeFrontFrame_acceptOrder (F : Frame) (s : State) : (storeFrontFrame F s).acceptOrder = s.acceptOrder := rfl
@[simp] theorem storeFrontFrame_cfg (F : Frame) (s : State) : (storeFrontFrame F s).cfg = s.cfg := rfl

/-! `dropUnit` changes `TOVF` and `TLEN` only. -/

@[simp] theorem dropUnit_pstate (s : State) : (dropUnit s).pstate = s.pstate := rfl
@[simp] theorem dropUnit_cnt (s : State) : (dropUnit s).cnt = s.cnt := rfl
@[simp] theorem dropUnit_pbuf (s : State) : (dropUnit s).pbuf = s.pbuf := rfl
@[simp] theorem dropUnit_prev (s : State) : (dropUnit s).prev = s.prev := rfl
@[simp] theorem dropUnit_prevV (s : State) : (dropUnit s).prevV = s.prevV := rfl
@[simp] theorem dropUnit_lframe (s : State) : (dropUnit s).lframe = s.lframe := rfl
@[simp] theorem dropUnit_lvalid (s : State) : (dropUnit s).lvalid = s.lvalid := rfl
@[simp] theorem dropUnit_new (s : State) : (dropUnit s).new = s.new := rfl
@[simp] theorem dropUnit_errcnt (s : State) : (dropUnit s).errcnt = s.errcnt := rfl
@[simp] theorem dropUnit_stxb (s : State) : (dropUnit s).stxb = s.stxb := rfl
@[simp] theorem dropUnit_stxv (s : State) : (dropUnit s).stxv = s.stxv := rfl
@[simp] theorem dropUnit_chk (s : State) : (dropUnit s).chk = s.chk := rfl
@[simp] theorem dropUnit_tbuf (s : State) : (dropUnit s).tbuf = s.tbuf := rfl
@[simp] theorem dropUnit_tlen (s : State) : (dropUnit s).tlen = 0 := rfl
@[simp] theorem dropUnit_tovf (s : State) : (dropUnit s).tovf = true := rfl
@[simp] theorem dropUnit_tfront (s : State) : (dropUnit s).tfront = s.tfront := rfl
@[simp] theorem dropUnit_tflen (s : State) : (dropUnit s).tflen = s.tflen := rfl
@[simp] theorem dropUnit_tfv (s : State) : (dropUnit s).tfv = s.tfv := rfl
@[simp] theorem dropUnit_sbusTx (s : State) : (dropUnit s).sbusTx = s.sbusTx := rfl
@[simp] theorem dropUnit_bleTx (s : State) : (dropUnit s).bleTx = s.bleTx := rfl
@[simp] theorem dropUnit_rsp (s : State) : (dropUnit s).rsp = s.rsp := rfl
@[simp] theorem dropUnit_cmdIn (s : State) : (dropUnit s).cmdIn = s.cmdIn := rfl
@[simp] theorem dropUnit_cmdPos (s : State) : (dropUnit s).cmdPos = s.cmdPos := rfl
@[simp] theorem dropUnit_sbusRx (s : State) : (dropUnit s).sbusRx = s.sbusRx := rfl
@[simp] theorem dropUnit_acceptOrder (s : State) : (dropUnit s).acceptOrder = s.acceptOrder := rfl
@[simp] theorem dropUnit_cfg (s : State) : (dropUnit s).cfg = s.cfg := rfl

/-! `startUnit` changes `CHK`, `TLEN` and `TOVF` only. -/

@[simp] theorem startUnit_pstate (s : State) : (startUnit s).pstate = s.pstate := rfl
@[simp] theorem startUnit_cnt (s : State) : (startUnit s).cnt = s.cnt := rfl
@[simp] theorem startUnit_pbuf (s : State) : (startUnit s).pbuf = s.pbuf := rfl
@[simp] theorem startUnit_prev (s : State) : (startUnit s).prev = s.prev := rfl
@[simp] theorem startUnit_prevV (s : State) : (startUnit s).prevV = s.prevV := rfl
@[simp] theorem startUnit_lframe (s : State) : (startUnit s).lframe = s.lframe := rfl
@[simp] theorem startUnit_lvalid (s : State) : (startUnit s).lvalid = s.lvalid := rfl
@[simp] theorem startUnit_new (s : State) : (startUnit s).new = s.new := rfl
@[simp] theorem startUnit_errcnt (s : State) : (startUnit s).errcnt = s.errcnt := rfl
@[simp] theorem startUnit_stxb (s : State) : (startUnit s).stxb = s.stxb := rfl
@[simp] theorem startUnit_stxv (s : State) : (startUnit s).stxv = s.stxv := rfl
@[simp] theorem startUnit_chk (s : State) : (startUnit s).chk = 0x00 := rfl
@[simp] theorem startUnit_tbuf (s : State) : (startUnit s).tbuf = s.tbuf := rfl
@[simp] theorem startUnit_tlen (s : State) : (startUnit s).tlen = 0 := rfl
@[simp] theorem startUnit_tovf (s : State) : (startUnit s).tovf = false := rfl
@[simp] theorem startUnit_tfront (s : State) : (startUnit s).tfront = s.tfront := rfl
@[simp] theorem startUnit_tflen (s : State) : (startUnit s).tflen = s.tflen := rfl
@[simp] theorem startUnit_tfv (s : State) : (startUnit s).tfv = s.tfv := rfl
@[simp] theorem startUnit_sbusTx (s : State) : (startUnit s).sbusTx = s.sbusTx := rfl
@[simp] theorem startUnit_bleTx (s : State) : (startUnit s).bleTx = s.bleTx := rfl
@[simp] theorem startUnit_rsp (s : State) : (startUnit s).rsp = s.rsp := rfl
@[simp] theorem startUnit_cmdIn (s : State) : (startUnit s).cmdIn = s.cmdIn := rfl
@[simp] theorem startUnit_cmdPos (s : State) : (startUnit s).cmdPos = s.cmdPos := rfl
@[simp] theorem startUnit_sbusRx (s : State) : (startUnit s).sbusRx = s.sbusRx := rfl
@[simp] theorem startUnit_acceptOrder (s : State) : (startUnit s).acceptOrder = s.acceptOrder := rfl
@[simp] theorem startUnit_cfg (s : State) : (startUnit s).cfg = s.cfg := rfl

end Sys2Proof.Machine
end

