-- ==== Sys2Proof/Laws/Engine.lean ====
section
/-! SUPPORT. The engine (42_stuff_checksum.md R180 to R186): what `Emit`, `Push` and the commit do, said once, and that
they write the engine's registers and the front buffer only. -/

namespace Sys2Proof.Machine

theorem emit_dropped {x s} (h : s.tovf = true) : emit x s = s := by rw [emit, if_pos h]

theorem emit_room {x s} (h : s.tovf = false) (hl : s.tlen.toNat < s.cfg.lineMax) :
    emit x s = { s with tbuf := s.tbuf.set s.tlen.toNat x, tlen := s.tlen + 1 } := by
  rw [emit, if_neg (by rw [h]; decide), if_pos hl]

theorem emit_full {x s} (h : s.tovf = false) (hl : s.cfg.lineMax ≤ s.tlen.toNat) : emit x s = dropUnit s := by
  rw [emit, if_neg (by rw [h]; decide), if_neg (by omega)]

/-- `Emit` neither reads nor writes `CHK`. -/
theorem emit_chk (x : Byte) (s : State) (c : Byte) : emit x { s with chk := c } = { emit x s with chk := c } := by
  by_cases h : s.tovf = true
  · rw [emit_dropped h, emit_dropped (s := { s with chk := c }) h]
  · have h : s.tovf = false := by cases hh : s.tovf <;> simp_all
    by_cases hl : s.tlen.toNat < s.cfg.lineMax
    · rw [emit_room h hl, emit_room (s := { s with chk := c }) h hl]
    · rw [emit_full h (by omega), emit_full (s := { s with chk := c }) h (Nat.not_lt.1 hl)]; rfl

theorem emit_chk_eq (x : Byte) (s : State) : (emit x s).chk = s.chk := by
  have h : (emit x { s with chk := s.chk }).chk = s.chk := by rw [emit_chk]
  exact h

theorem emitAll_chk (bs : List Byte) (s : State) (c : Byte) : emitAll bs { s with chk := c } = { emitAll bs s with chk := c } := by
  induction bs generalizing s with
  | nil => rfl
  | cons b bs ih =>
    show emitAll bs (emit b { s with chk := c }) = _
    rw [emit_chk, ih]; rfl

theorem emitAll_append (a b : List Byte) (s : State) : emitAll (a ++ b) s = emitAll b (emitAll a s) := List.foldl_append

theorem xorAll_cons (b : Byte) (bs : List Byte) : xorAll (b :: bs) = b ^^^ xorAll bs := rfl

/-- `Push` in terms of `Emit`. -/
theorem push_eq (b : Byte) (s : State) : push b s = { emitAll (stuff b) s with chk := s.chk ^^^ b } := by
  rw [push, emitAll_chk]

theorem emitAll_chk_eq (bs : List Byte) (s : State) : (emitAll bs s).chk = s.chk := by
  have h : (emitAll bs { s with chk := s.chk }).chk = s.chk := by rw [emitAll_chk]
  exact h

/-- Pushing is emitting the stuffed bytes, with the XOR of the bytes themselves. -/
theorem pushAll_eq (bs : List Byte) (s : State) : pushAll bs s = { emitAll (bs.flatMap stuff) s with chk := s.chk ^^^ xorAll bs } := by
  induction bs generalizing s with
  | nil => show s = { s with chk := s.chk ^^^ 0#8 }; rw [BitVec.xor_zero]
  | cons b bs ih =>
    show pushAll bs (push b s) = _
    rw [ih, push_eq, List.flatMap_cons, emitAll_append, emitAll_chk, xorAll_cons, BitVec.xor_assoc]

/-- Bytes that fit are written behind the cursor, and nothing else changes. -/
theorem emitAll_fit (bs : List Byte) (s : State) (hv : s.cfg.lineMax ≤ 65535) (ht : s.tbuf.length = s.cfg.lineMax) (h : s.tovf = false)
    (hl : s.tlen.toNat + bs.length ≤ s.cfg.lineMax) :
    emitAll bs s = { s with tbuf := s.tbuf.take s.tlen.toNat ++ bs ++ s.tbuf.drop (s.tlen.toNat + bs.length), tlen := s.tlen + BitVec.ofNat 16 bs.length } := by
  induction bs generalizing s with
  | nil => show s = { s with tbuf := _, tlen := _ }; simp
  | cons b bs ih =>
    show emitAll bs (emit b s) = _
    simp only [List.length_cons] at hl
    rw [emit_room h (by omega)]
    have e : (s.tlen + 1).toNat = s.tlen.toNat + 1 := by rw [BitVec.toNat_add]; simp; omega
    rw [ih { s with tbuf := s.tbuf.set s.tlen.toNat b, tlen := s.tlen + 1 } hv (by simp [ht]) h (by simp only [e]; omega)]
    simp only [e]
    have e1 : (s.tbuf.set s.tlen.toNat b).take (s.tlen.toNat + 1) = s.tbuf.take s.tlen.toNat ++ [b] := by
      rw [List.take_add_one, List.take_set_of_le (Nat.le_refl _), List.getElem?_set_self (by omega)]; rfl
    have e2 : (s.tbuf.set s.tlen.toNat b).drop (s.tlen.toNat + 1 + bs.length) = s.tbuf.drop (s.tlen.toNat + (bs.length + 1)) := by
      rw [List.drop_set_of_lt (by omega)]; congr 1; omega
    have e3 : s.tlen + 1 + BitVec.ofNat 16 bs.length = s.tlen + BitVec.ofNat 16 (bs.length + 1) := by
      apply BitVec.eq_of_toNat_eq; simp [BitVec.toNat_add]; omega
    rw [e1, e2, e3, List.append_assoc, List.append_assoc, List.append_assoc]; rfl

theorem emitAll_dropped (bs : List Byte) (s : State) (h : s.tovf = true) : emitAll bs s = s := by
  induction bs with
  | nil => rfl
  | cons b bs ih => show emitAll bs (emit b s) = s; rw [emit_dropped h, ih]

/-- Bytes that do not fit drop the unit; what stood before the overflow is still in the back buffer. -/
theorem emitAll_over (bs : List Byte) (s : State) (hv : s.cfg.lineMax ≤ 65535) (ht : s.tbuf.length = s.cfg.lineMax) (h : s.tovf = false)
    (hs : s.tlen.toNat ≤ s.cfg.lineMax) (hl : s.cfg.lineMax < s.tlen.toNat + bs.length) :
    emitAll bs s = { s with tbuf := s.tbuf.take s.tlen.toNat ++ bs.take (s.cfg.lineMax - s.tlen.toNat), tlen := 0, tovf := true } := by
  have e : bs = bs.take (s.cfg.lineMax - s.tlen.toNat) ++ bs.drop (s.cfg.lineMax - s.tlen.toNat) := (List.take_append_drop _ _).symm
  have hlen : (bs.take (s.cfg.lineMax - s.tlen.toNat)).length = s.cfg.lineMax - s.tlen.toNat := by simp; omega
  obtain ⟨d, ds, hd⟩ : ∃ d ds, bs.drop (s.cfg.lineMax - s.tlen.toNat) = d :: ds := by
    cases hc : bs.drop (s.cfg.lineMax - s.tlen.toNat) with
    | nil => have := List.drop_eq_nil_iff.1 hc; omega
    | cons d ds => exact ⟨d, ds, rfl⟩
  conv_lhs => rw [e, hd, emitAll_append, emitAll_fit _ s hv ht h (by omega)]
  rw [hlen]
  have e1 : (s.tlen + BitVec.ofNat 16 (s.cfg.lineMax - s.tlen.toNat)).toNat = s.cfg.lineMax := by
    rw [BitVec.toNat_add]; simp; omega
  have e2 : s.tbuf.drop (s.tlen.toNat + (s.cfg.lineMax - s.tlen.toNat)) = [] := by rw [List.drop_eq_nil_iff]; omega
  rw [e2, List.append_nil]
  show emitAll ds (emit d _) = _
  rw [emit_full (by exact h) (by exact Nat.le_of_eq e1.symm), emitAll_dropped _ _ rfl]
  rfl

theorem stuff_plain (x : Byte) (h1 : x ≠ 0x7E) (h2 : x ≠ 0x7D) : stuff x = [x] := by
  rw [stuff, needsStuffing, if_neg]
  simp [sentinel, stuffEscape]; exact ⟨h1, h2⟩

/-- A commit that happens. -/
theorem commit_ok (s : State) (h : s.tovf = false) (hl : 0 < s.tlen.toNat) :
    commit s = { s with
      tfront := (s.tbuf.take s.tlen.toNat).map some ++ s.tfront.drop s.tlen.toNat
      tflen := s.tlen, tfv := true } := by
  rw [commit, if_pos (by simp [h, hl])]

/-- A commit of an overflowed or empty unit changes nothing. -/
theorem commit_no (s : State) (h : s.tovf = true ∨ s.tlen.toNat = 0) : commit s = s := by
  rw [commit, if_neg]
  rcases h with h | h <;> simp [h]

/-- Start, raw sentinel, pushes, checksum, raw sentinel: the framed unit is emitted, and `CHK` ends at 0. -/
theorem build_framedUnit (s : State) (sent : Byte) (payload : List Byte) :
    emit sent (pushChecksum (pushAll payload (emit sent (startUnit s)))) =
      { emitAll (framedUnit sent payload) (startUnit s) with chk := 0x00 } := by
  obtain ⟨W, hWd⟩ : ∃ W : Byte → State → State, ∀ c t, W c t = { t with chk := c } := ⟨_, fun _ _ => rfl⟩
  have hW : ∀ bs c t, emitAll bs (W c t) = W c (emitAll bs t) := fun bs c t => by rw [hWd, hWd, emitAll_chk]
  have hP : ∀ bs t, pushAll bs t = W (t.chk ^^^ xorAll bs) (emitAll (bs.flatMap stuff) t) := fun bs t => by rw [hWd, pushAll_eq]
  have hp : ∀ b t, push b t = W (t.chk ^^^ b) (emitAll (stuff b) t) := fun b t => by rw [hWd, push_eq]
  have hWW : ∀ c d t, W c (W d t) = W c t := fun _ _ _ => by simp only [hWd]
  have hc : ∀ c t, (W c t).chk = c := fun _ _ => by rw [hWd]
  have e1 : ∀ t : State, emit sent t = emitAll [sent] t := fun _ => rfl
  have e0 : (emitAll [sent] (startUnit s)).chk = 0#8 := by rw [emitAll_chk_eq]; rfl
  rw [e1, e1, hP, pushChecksum, hp]
  simp only [hc, hW, hWW, e0, BitVec.zero_xor, BitVec.xor_self]
  rw [framedUnit, emitAll_append, emitAll_append, emitAll_append, hWd]
  rfl

/-- `s` with the engine's registers of `e`. -/
def withEngineOf (e s : State) : State := { s with chk := e.chk, tbuf := e.tbuf, tlen := e.tlen, tovf := e.tovf }

theorem withEngineOf_twice (e f s : State) : withEngineOf e (withEngineOf f s) = withEngineOf e s := rfl

theorem emit_frame (x : Byte) (s : State) : emit x s = withEngineOf (emit x s) s := by
  cases h : s.tovf
  · by_cases hl : s.tlen.toNat < s.cfg.lineMax
    · rw [emit_room h hl]; rfl
    · rw [emit_full h (by omega)]; rfl
  · rw [emit_dropped h]; rfl

theorem emitAll_frame (bs : List Byte) (s : State) : emitAll bs s = withEngineOf (emitAll bs s) s := by
  induction bs generalizing s with
  | nil => rfl
  | cons b bs ih =>
    show emitAll bs (emit b s) = withEngineOf (emitAll bs (emit b s)) s
    have h := ih (emit b s)
    rw [emit_frame b s, withEngineOf_twice, ← emit_frame b s] at h
    exact h

theorem push_frame (x : Byte) (s : State) : push x s = withEngineOf (push x s) s :=
  emitAll_frame (stuff x) { s with chk := s.chk ^^^ x }

theorem length_stuff (x : Byte) : (stuff x).length = 1 + if needsStuffing x then 1 else 0 := by
  unfold stuff; split <;> simp_all

theorem length_flatMap_stuff (l : List Byte) : (l.flatMap stuff).length = l.length + l.countP needsStuffing := by
  induction l with
  | nil => rfl
  | cons b l ih => rw [List.flatMap_cons, List.length_append, ih, length_stuff, List.countP_cons, List.length_cons]; split <;> omega

/-- `s` with the trainer front buffer of `e`. -/
def withFrontOf (e s : State) : State := { s with tfront := e.tfront, tflen := e.tflen, tfv := e.tfv }

/-- The commit writes the front buffer only, and never withdraws it. -/
theorem commit_frame (s : State) : commit s = withFrontOf (commit s) s ∧ (s.tfv = true → (commit s).tfv = true) := by
  by_cases h : s.tovf = false ∧ 0 < s.tlen.toNat
  · rw [commit_ok s h.1 h.2]; exact ⟨rfl, fun _ => rfl⟩
  · rw [commit_no s]
    · exact ⟨rfl, id⟩
    · cases hh : s.tovf
      · right; simpa [hh] using h
      · exact .inl rfl

theorem buildTrainer_eq (w : Channels) (s : State) :
    buildTrainerFrame w s = { emitAll (trainerFrame w) (startUnit s) with chk := 0x00 } :=
  build_framedUnit s sentinel (trainerPayload w)

theorem buildTrainer_frame (w : Channels) (s : State) : buildTrainerFrame w s = withEngineOf (buildTrainerFrame w s) s := by
  rw [buildTrainer_eq]
  have h := emitAll_frame (trainerFrame w) (startUnit s)
  generalize emitAll (trainerFrame w) (startUnit s) = e at *
  rw [h]; rfl

end Sys2Proof.Machine
end

