-- ==== Sys2Proof/Laws/Packing.lean ====
section
/-! SUPPORT. Where the bits of a packed frame come from (20_memory.md R62), the flag byte, and what the PWM mappings'
`floor_div` and `clamp` answer (00_scope.md R10). -/

namespace Sys2Proof.Machine

theorem unpack_bit (F : Frame) (i j : Nat) (hi : i < 16) (hj : j < 11) : (sbusUnpack F)[i].getLsbD j = streamBit F (11 * i + j) := by
  simp [sbusUnpack, hj]

theorem packByte_bit (raw k m) (hm : m < 8) : (packByte raw k).getLsbD m = packBit raw (8 * (k - 1) + m) := by
  simp [packByte, hm]

theorem pack_get_payload (raw fl k) (h1 : 1 ≤ k) (h2 : k ≤ 22) : (sbusPack raw fl)[k] = packByte raw k := by
  simp only [sbusPack, Vector.getElem_ofFn]
  rw [if_neg (by omega), if_pos h2]

theorem streamBit_pack (raw fl p) : streamBit (sbusPack raw fl) p = packBit raw p := by
  by_cases h : p < 176
  · rw [streamBit, dif_pos h, pack_get_payload _ _ _ (by omega) (by omega), packByte_bit _ _ _ (by omega)]
    congr 1; omega
  · rw [streamBit, dif_neg h, packBit, dif_neg h]

theorem packBit_unpack (F p) : packBit (sbusUnpack F) p = streamBit F p := by
  by_cases h : p < 176
  · rw [packBit, dif_pos h, unpack_bit _ _ _ _ (by omega)]
    congr 1; omega
  · rw [streamBit, dif_neg h, packBit, dif_neg h]

theorem floorDiv_spec (a b : Int) (hb : 0 < b) : floorDiv a b * b ≤ a ∧ a < (floorDiv a b + 1) * b := by
  rw [floorDiv, Int.fdiv_eq_ediv_of_nonneg _ (by omega)]
  constructor
  · exact Int.ediv_mul_le a (by omega)
  · exact Int.lt_ediv_add_one_mul_self a hb

theorem clamp_bounds (lo hi v : Int) (h : lo ≤ hi) : lo ≤ clamp lo hi v ∧ clamp lo hi v ≤ hi := by
  unfold clamp; split
  · omega
  · split <;> omega

theorem ofInt_toNat (n : Nat) (v : Int) (h0 : 0 ≤ v) (h1 : v < 2 ^ n) : ((BitVec.ofInt n v).toNat : Int) = v := by
  rw [BitVec.toNat_ofInt]
  have : v % (2 ^ n : Nat) = v := Int.emod_eq_of_lt h0 (by push_cast; exact h1)
  push_cast at this ⊢
  rw [this]
  omega

theorem pack_ends (raw fl) : (sbusPack raw fl)[0] = 0x0F ∧ (sbusPack raw fl)[23] = fl.setWidth 8 ∧ (sbusPack raw fl)[24] = 0x00 := by
  simp [sbusPack, sbusHeader, sbusFooter]

theorem flag_setWidth (fl : Byte) (h : flagByteInRange fl = true) : (flagOperand fl).setWidth 8 = fl := by
  simp [flagByteInRange] at h
  apply BitVec.eq_of_getLsbD_eq
  intro i hi
  by_cases h4 : i < 4
  · simp [flagOperand, h4, hi]
  · have := congrArg (fun v => v.getLsbD (i - 4)) h
    simp [show i - 4 < 4 by omega, show 4 + (i - 4) = i by omega] at this
    simp [flagOperand, h4]
    exact this

end Sys2Proof.Machine
end

