-- ==== Sys2Proof/Laws/Parser.lean ====
section
/-! SUPPORT. The parser (40_sbus_decoder.md R121): what one received byte does, and that it reads and writes the parser's
registers only. -/

namespace Sys2Proof.Machine

/-- One received byte: SRX (40_sbus_decoder.md R121). -/
def rxByte (b : Byte) (s : State) : State := notePrevious b (parseByte b s)

theorem exec_srx (b s) : exec (.srx b) s = .next (rxByte b s) := rfl

/-- `v` with the parser's registers of `u`. -/
def withParserOf (u v : State) : State :=
  { v with pstate := u.pstate, cnt := u.cnt, pbuf := u.pbuf, prev := u.prev, prevV := u.prevV, lframe := u.lframe,
           lvalid := u.lvalid, new := u.new, errcnt := u.errcnt }

theorem parseByte_seeking {b s} (hp : s.pstate = .seeking) : parseByte b s = if startsFrame b s then startFrame b s else s := by
  rw [parseByte, hp]

theorem parseByte_filling {b s} (hp : s.pstate = .filling) : parseByte b s = fillFrame b s := by
  rw [parseByte, hp]

theorem fillFrame_withParserOf (b u v) : fillFrame b (withParserOf u v) = withParserOf (fillFrame b u) v := by
  unfold fillFrame
  by_cases h : u.cnt.toNat < 24
  · rw [dif_pos (show (withParserOf u v).cnt.toNat < 24 from h), dif_pos h]; rfl
  · rw [dif_neg (show ¬ (withParserOf u v).cnt.toNat < 24 from h), dif_neg h]
    by_cases hb : isFooter b = true
    · simp only [if_pos hb]; rfl
    · simp only [if_neg hb]; rfl

/-- SRX reads the parser's registers only. -/
theorem rxByte_withParserOf (b u v) : rxByte b (withParserOf u v) = withParserOf (rxByte b u) v := by
  suffices h : parseByte b (withParserOf u v) = withParserOf (parseByte b u) v by
    rw [rxByte, h]; rfl
  cases hp : u.pstate with
  | seeking =>
    rw [parseByte_seeking hp, parseByte_seeking (show (withParserOf u v).pstate = .seeking from hp)]
    by_cases hs : startsFrame b u = true
    · rw [if_pos hs, if_pos (show startsFrame b (withParserOf u v) = true from hs)]; rfl
    · rw [if_neg hs, if_neg (show ¬ startsFrame b (withParserOf u v) = true from hs)]
  | filling =>
    rw [parseByte_filling hp, parseByte_filling (show (withParserOf u v).pstate = .filling from hp)]
    exact fillFrame_withParserOf b u v

theorem withParserOf_self (u) : withParserOf u u = u := rfl

/-- SRX writes the parser's registers only. -/
theorem rxByte_eq (b u) : rxByte b u = withParserOf (rxByte b u) u := by
  have := rxByte_withParserOf b u u
  rwa [withParserOf_self] at this

theorem isFooter_iff (b : Byte) : isFooter b = true ↔ (b = 0x00 ∨ b.extractLsb' 0 4 = 4) := by
  simp [isFooter]

theorem rxByte_fill {b s} (h : s.cnt.toNat < 24) (hp : s.pstate = .filling) : rxByte b s = { s with
        pbuf := s.pbuf.set s.cnt.toNat b, cnt := s.cnt + 1, prev := b, prevV := true } := by
  simp [rxByte, parseByte, hp, fillFrame, h, notePrevious]

theorem cnt_succ {s : State} (h : s.cnt.toNat < 24) : (s.cnt + 1).toNat = s.cnt.toNat + 1 := by
  simp [BitVec.toNat_add]; omega

/-- SRX clears neither `NEW` nor `LVALID`, and sets `PREV_V`. -/
theorem rxByte_keeps_flags (b : Byte) (s : State) : (s.new = true → (rxByte b s).new = true) ∧ (s.lvalid = true → (rxByte b s).lvalid = true) ∧ (rxByte b s).prevV = true := by
  refine ⟨?_, ?_, rfl⟩ <;> intro h
  · show (parseByte b s).new = true
    cases hp : s.pstate
    · rw [parseByte_seeking hp]; split <;> exact h
    · rw [parseByte_filling hp, fillFrame]; split
      · exact h
      · simp only []; split
        · rfl
        · exact h
  · show (parseByte b s).lvalid = true
    cases hp : s.pstate
    · rw [parseByte_seeking hp]; split <;> exact h
    · rw [parseByte_filling hp, fillFrame]; split
      · exact h
      · simp only []; split
        · rfl
        · exact h

end Sys2Proof.Machine
end

