-- ==== Sys2Proof/Laws/Commands.lean ====
section
/-! SUPPORT. What each command can do, said once: `exec_shape` inverts `exec`, and the later lemmas say what running a
sequence of commands comes to. -/

namespace Sys2Proof.Machine

/-- Only operands outside R103 are refused by a meaning. -/
theorem exec_illFormed (i : Instr) (s : State) (h : i.wellFormed = false) : exec i s = .refused (.illFormed s.cmdPos) := by
  cases i <;> first
    | (simp only [exec, execSenc, execSencp, h]; rfl)
    | simp [Instr.wellFormed] at h

theorem exec_senc {w fl s} (h : (Instr.senc w fl).wellFormed = true) : exec (.senc w fl) s = .next { s with stxb := some (sbusPack (rawOperands w) (flagOperand fl)), stxv := true } := by
  rw [exec, execSenc, if_pos h]; rfl

theorem exec_sencp {w fl s} (h : (Instr.sencp w fl).wellFormed = true) : exec (.sencp w fl) s = .next { s with stxb := some (sbusPack (pwmOperands s.cfg w) (flagOperand fl)), stxv := true } := by
  rw [exec, execSencp, if_pos h]; rfl

theorem sbusPack_shape (raw fl) : builtFrameShape (sbusPack raw fl) = true := by
  obtain ⟨a, b, c⟩ := pack_ends raw fl
  simp only [builtFrameShape, a, b, c]
  have : (fl.setWidth 8).extractLsb' 4 4 = 0#4 := by
    apply BitVec.eq_of_getLsbD_eq; intro i hi; simp
  rw [this]; rfl

/-- What a command changes when it answers a next state: the shared operation it comes to. -/
def ExecShape : Instr → State → State → Prop
  | .rst, s, t => t = resetRegisters s
  | .stat, s, t => ∃ r, t = respond r s
  | .srx b, s, t => t = rxByte b s
  | .spoll, s, t => ∃ r, t = { respond r s with new := false }
  | .senc _ _, s, t => ∃ F, t = storeFrontFrame F s ∧ builtFrameShape F = true
  | .sencp _ _, s, t => ∃ F, t = storeFrontFrame F s ∧ builtFrameShape F = true
  | .stx, s, t => ∃ l, t = sbusSend l s
  | .erst, s, t => t = startUnit s
  | .eraw b, s, t => t = emit b s
  | .epush b, s, t => t = push b s
  | .echk, s, t => t = pushChecksum s
  | .ecmt, s, t => t = commit s
  | .tenc w, s, t => t = commit (buildTrainerFrame w s)
  | .ttx, s, t => ∃ l, t = { s with bleTx := s.bleTx ++ l }

theorem exec_tenc (w s) : exec (.tenc w) s = .next (commit (buildTrainerFrame w s)) := by rw [exec, execTenc]

/-- The inversion of `exec`. -/
theorem exec_shape {i s t} (h : exec i s = .next t) : ExecShape i s t := by
  cases i
  case rst => injection h with h; exact h.symm
  case stat => injection h with h; exact ⟨_, h.symm⟩
  case srx b => injection h with h; exact h.symm
  case spoll => injection h with h; exact ⟨_, h.symm⟩
  case senc w fl =>
    by_cases hw : (Instr.senc w fl).wellFormed = true
    · rw [exec_senc hw] at h; injection h with h; exact ⟨_, h.symm, sbusPack_shape _ _⟩
    · rw [exec_illFormed _ _ (by simpa using hw)] at h; cases h
  case sencp w fl =>
    by_cases hw : (Instr.sencp w fl).wellFormed = true
    · rw [exec_sencp hw] at h; injection h with h; exact ⟨_, h.symm, sbusPack_shape _ _⟩
    · rw [exec_illFormed _ _ (by simpa using hw)] at h; cases h
  case stx =>
    injection h with h; subst h
    cases hv : s.stxv
    · exact ⟨[], by show s = { s with sbusTx := s.sbusTx ++ [] }; rw [List.append_nil]⟩
    · exact ⟨_, rfl⟩
  case ttx =>
    injection h with h; subst h
    cases hv : s.tfv
    · exact ⟨[], by show s = { s with bleTx := s.bleTx ++ [] }; rw [List.append_nil]⟩
    · exact ⟨_, rfl⟩
  case tenc w => rw [exec_tenc] at h; exact (Host.Outcome.next.inj h).symm
  all_goals exact (Host.Outcome.next.inj h).symm

theorem execAll_cons (i is s) : execAll (i :: is) s =
    match exec i s with
    | .next t => execAll is t
    | .fault r => .fault r
    | .refused r => .refused r := rfl

theorem execAll_append {is js s t} (h : execAll is s = .next t) : execAll (is ++ js) s = execAll js t := by
  induction is generalizing s with
  | nil => simp [execAll] at h; subst h; rfl
  | cons i is ih =>
    rw [List.cons_append, execAll_cons]
    rw [execAll_cons] at h
    cases he : exec i s with
    | next u => rw [he] at h; exact ih h
    | fault r => rw [he] at h; cases h
    | refused r => rw [he] at h; cases h

/-- A batch of received bytes. -/
def rxAll (bs : List Byte) (s : State) : State := bs.foldl (fun t b => rxByte b t) s

theorem execAll_srx (bs s) : execAll (bs.map .srx) s = .next (rxAll bs s) := by
  induction bs generalizing s with
  | nil => rfl
  | cons b bs ih => rw [List.map_cons, execAll_cons, exec_srx]; exact ih _

theorem execAll_epush (l : List Byte) (s : State) : execAll (l.map .epush) s = .next (pushAll l s) := by
  induction l generalizing s with
  | nil => rfl
  | cons b l ih => exact ih (push b s)

end Sys2Proof.Machine
end

