-- ==== Sys2Proof/Laws/Encoding.lean ====
section
/-! SUPPORT. Lemmas of the encoding (30_encoding.md R100 to R106): what the encoder's bytes hold, what the decoder reads
from them, and what a byte list the decoder accepts looks like. -/

namespace Sys2Proof

theorem le16_append (w : Word) : (w.extractLsb' 8 8 ++ w.extractLsb' 0 8 : BitVec 16) = w := by
  ext i hi
  simp only [BitVec.getElem_append, BitVec.getElem_extractLsb']
  by_cases h : i < 8 <;> simp [h]
  · simp [BitVec.getLsbD_eq_getElem hi]
  · have : 8 + (i - 8) = i := by omega
    simp [this, BitVec.getLsbD_eq_getElem hi]

theorem length_le16 (w : Word) : (le16 w).length = 2 := rfl

theorem length_flatMap_le16 (l : List Word) : (l.flatMap le16).length = 2 * l.length := by
  induction l with
  | nil => rfl
  | cons w l ih => simp [ih, le16]; omega

theorem length_channelBytes (w : Channels) : (channelBytes w).length = 32 := by
  rw [channelBytes, length_flatMap_le16]; simp

theorem getD_flatMap_le16 (l : List Word) (r : List Byte) (k : Nat) (h : k < l.length) :
    (l.flatMap le16 ++ r).getD (2 * k) 0 = l[k].extractLsb' 0 8 ∧
      (l.flatMap le16 ++ r).getD (2 * k + 1) 0 = l[k].extractLsb' 8 8 := by
  induction l generalizing k with
  | nil => simp at h
  | cons w l ih =>
    cases k with
    | zero => simp [le16]
    | succ k =>
      have := ih k (by simpa using h)
      have e1 : 2 * (k + 1) = 2 * k + 1 + 1 := by omega
      simpa [le16, e1] using this

theorem channelsAt_channelBytes (op : Byte) (w : Channels) (r : List Byte) :
    channelsAt (op :: (channelBytes w ++ r)) = w := by
  ext k hk
  have h := getD_flatMap_le16 w.toList r k (by simpa using hk)
  have e1 : 2 + 2 * k = 2 * k + 1 + 1 := by omega
  have e2 : 1 + 2 * k = 2 * k + 1 := by omega
  have g1 : byteAt (op :: (channelBytes w ++ r)) (2 + 2 * k) = w[k].extractLsb' 8 8 := by
    rw [byteAt, e1]; simpa [channelBytes] using h.2
  have g2 : byteAt (op :: (channelBytes w ++ r)) (1 + 2 * k) = w[k].extractLsb' 0 8 := by
    rw [byteAt, e2]; simpa [channelBytes] using h.1
  simp only [channelsAt, Vector.getElem_ofFn, wordAt, g1, g2, le16_append]

theorem byteAt_flag (op : Byte) (w : Channels) (fl : Byte) (r : List Byte) :
    byteAt (op :: (channelBytes w ++ fl :: r)) 33 = fl := by
  have := length_channelBytes w
  simp [byteAt, List.getD_eq_getElem?_getD, this]

theorem ofByte_byte (o : Opcode) : Opcode.ofByte o.byte = some o := by cases o <;> decide

theorem assemble_encode (i : Instr) (r : List Byte) : i.opcode.assemble (encode i ++ r) = i := by
  cases i <;>
    simp [encode, Instr.opcode, Opcode.assemble, byteAt, channelsAt_channelBytes]
  · exact byteAt_flag 0 _ _ _
  · exact byteAt_flag 0 _ _ _

/-- inversion of the decoder -/
theorem decode_ok {bs : List Byte} {i : Instr} (h : decode bs = .ok i) :
    ∃ o r, bs = Opcode.byte o :: r ∧ o.format.length ≤ bs.length ∧ i = o.assemble bs ∧ i.wellFormed = true := by
  cases bs with
  | nil => simp [decode] at h
  | cons op r =>
    simp only [decode] at h
    split at h
    · cases h
    · rename_i o ho
      split at h
      · cases h
      · split at h
        · cases h
          refine ⟨o, r, ?_, by omega, rfl, ‹_›⟩
          have := List.find?_some ho
          simp at this
          rw [this]
        · cases h

theorem opcode_assemble (o : Opcode) (bs : List Byte) : (o.assemble bs).opcode = o := by cases o <;> rfl

theorem le16_of_append (a b : Byte) : le16 (a ++ b : BitVec 16) = [b, a] := by
  simp only [le16, List.cons.injEq, and_true]
  constructor
  · ext i hi
    have := BitVec.getLsbD_append (x := a) (y := b) (i := i)
    simp [hi] at this ⊢
    exact this.trans (by simp)
  · ext i hi
    have := BitVec.getLsbD_append (x := a) (y := b) (i := 8 + i)
    simp at this ⊢
    exact this.trans (by simp [BitVec.getLsbD_eq_getElem hi])

theorem toList_channelsAt (bs : List Byte) : (channelsAt bs).toList = (List.range 16).map (wordAt bs) := by
  apply List.ext_getElem <;> simp [channelsAt]

theorem take_succ_getD (l : List Byte) (n : Nat) (h : n < l.length) :
    l.take (n + 1) = l.take n ++ [l.getD n 0] := by
  rw [List.getD_eq_getElem?_getD, List.getElem?_eq_getElem h, List.take_add_one, List.getElem?_eq_getElem h]; rfl

theorem take_two_mul (l : List Byte) : ∀ n, 2 * n ≤ l.length →
    (List.range n).flatMap (fun k => [l.getD (2 * k) 0, l.getD (2 * k + 1) 0]) = l.take (2 * n) := by
  intro n
  induction n with
  | zero => simp
  | succ n ih =>
    intro h
    rw [List.range_succ, List.flatMap_append, ih (by omega), show 2 * (n + 1) = 2 * n + 1 + 1 by omega,
      take_succ_getD l _ (by omega), take_succ_getD l _ (by omega)]
    simp

theorem channelBytes_channelsAt (op : Byte) (r : List Byte) (h : 32 ≤ r.length) :
    channelBytes (channelsAt (op :: r)) = r.take 32 := by
  rw [channelBytes, toList_channelsAt, List.flatMap_map]
  have := take_two_mul r 16 (by omega)
  rw [show 2 * 16 = 32 from rfl] at this
  rw [← this]
  congr 1
  funext k
  have e1 : 2 + 2 * k = 2 * k + 1 + 1 := by omega
  have e2 : 1 + 2 * k = 2 * k + 1 := by omega
  simp only [wordAt, le16_of_append, byteAt, e1, e2, List.getD_cons_succ]

theorem encode_assemble (o : Opcode) (r : List Byte) (h : o.format.length ≤ (o.byte :: r).length) :
    encode (o.assemble (o.byte :: r)) = (o.byte :: r).take o.format.length := by
  have h1 : 1 ≤ r.length → [byteAt (o.byte :: r) 1] = r.take 1 := fun h => by
    rw [take_succ_getD r 0 h]; rfl
  have h33 : 33 ≤ r.length → channelBytes (channelsAt (o.byte :: r)) ++ [byteAt (o.byte :: r) 33] = r.take 33 :=
    fun h => by rw [channelBytes_channelsAt _ _ (by omega), take_succ_getD r 32 h]; rfl
  have h32 : 32 ≤ r.length → channelBytes (channelsAt (o.byte :: r)) = r.take 32 := channelBytes_channelsAt _ _
  cases o <;> simp only [Opcode.format, Format.length, List.length_cons] at h <;>
    simp only [Opcode.assemble, encode, Instr.opcode, Opcode.format, Format.length, List.take_succ_cons,
      List.take_zero, h1, h32, h33, Nat.succ_le_succ_iff.mp h]

theorem decode_reserved (b : Byte) (r : List Byte) :
    decode (b :: r) = .error .reservedOpcode ↔ Opcode.ofByte b = none := by
  simp only [decode]
  split
  · simp_all
  · split
    · simp_all
    · split <;> simp_all

theorem rawWordsInRange_iff (w : Channels) : rawWordsInRange w = true ↔ ∀ (k : Nat) (h : k < 16), w[k].toNat ≤ 2047 := by
  simp only [rawWordsInRange, List.all_eq_true, decide_eq_true_eq]
  constructor
  · intro h k hk
    exact h _ (by simp)
  · intro h x hx
    obtain ⟨i, hi, rfl⟩ := List.getElem_of_mem hx
    simpa using h i (by simpa using hi)

end Sys2Proof
end

