-- ==== Sys2Proof/Laws/Invariant.lean ====
section
/-! SUPPORT. The invariant in four parts (the parser, the SBUS front buffer, the engine, the trainer front buffer), and that
the shared operations keep the part they write. -/

namespace Sys2Proof.Machine

/-- The part of the invariant about the parser. -/
structure ParserInv (s : State) : Prop where
  seeking_iff_empty : s.pstate = .seeking ↔ s.cnt = 0
  filling_has_header : s.pstate = .filling → s.pbuf[0] = 0x0F
  lvalid_has_frame : s.lvalid = true → s.lframe.any receivedFrameShape = true
  new_lvalid : s.new = true → s.lvalid = true
  cnt_range : s.cnt.toNat ≤ 24
  lframe_iff : s.lframe.isSome = s.lvalid

/-- The part about the SBUS front buffer. -/
structure FrontFrameInv (s : State) : Prop where
  stxv_has_frame : s.stxv = true → s.stxb.any builtFrameShape = true
  stxb_iff : s.stxb.isSome = s.stxv

/-- The part about the engine and the parameters. -/
structure EngineInv (s : State) : Prop where
  cfg_valid : s.cfg.Valid
  tlen_bounded : s.tlen.toNat ≤ s.cfg.lineMax
  tovf_empty : s.tovf = true → s.tlen = 0
  tbuf_size : s.tbuf.length = s.cfg.lineMax

/-- The part about the trainer front buffer. -/
structure FrontUnitInv (s : State) : Prop where
  no_front_no_length : s.tfv = false → s.tflen = 0
  front_length : s.tfv = true → 1 ≤ s.tflen.toNat ∧ s.tflen.toNat ≤ s.cfg.lineMax
  tfront_size : s.tfront.length = s.cfg.lineMax
  front_has_value : ∀ c ∈ s.tfront.take s.tflen.toNat, c.isSome = true

theorem inv_iff (s : State) : s.Inv ↔ ParserInv s ∧ FrontFrameInv s ∧ EngineInv s ∧ FrontUnitInv s := by
  constructor
  · rintro ⟨⟨a, b, c, d, e, f, g, h, i⟩, j, k, l, m, n, o, p⟩
    exact ⟨⟨a, b, c, d, k, l⟩, ⟨i, m⟩, ⟨j, e, f, n⟩, ⟨g, h, o, p⟩⟩
  · rintro ⟨⟨a, b, c, d, k, l⟩, ⟨i, m⟩, ⟨j, e, f, n⟩, ⟨g, h, o, p⟩⟩
    exact ⟨⟨a, b, c, d, e, f, g, h, i⟩, j, k, l, m, n, o, p⟩

theorem ParserInv.reset {s : State} (h1 : s.pstate = .seeking) (h2 : s.cnt = 0) (h3 : s.lvalid = false) (h4 : s.new = false) (h5 : s.lframe = none) : ParserInv s :=
  ⟨by simp [h1, h2], by simp [h1], by simp [h3], by simp [h4], by simp [h2], by simp [h5, h3]⟩

theorem FrontUnitInv.reset {s : State} (h1 : s.tfv = false) (h2 : s.tflen = 0) (h3 : s.tfront.length = s.cfg.lineMax) : FrontUnitInv s :=
  ⟨fun _ => h2, by simp [h1], h3, by simp [h2]⟩

theorem ParserInv.rx {s : State} (b : Byte) (h : ParserInv s) : ParserInv (rxByte b s) := by
  obtain ⟨a1, a2, a3, a4, a5, a6⟩ := h
  cases hp : s.pstate
  · show ParserInv (notePrevious b (parseByte b s))
    rw [parseByte_seeking hp]
    split
    · next hs =>
      have hb : b = 0x0F := by
        simp [startsFrame, isHeader, sbusHeader] at hs; exact hs.1.1.2
      refine ⟨by simp [notePrevious, startFrame], ?_, a3, a4, by simp [notePrevious, startFrame], a6⟩
      intro _; simp [notePrevious, startFrame, hb]
    · exact ⟨a1, a2, a3, a4, a5, a6⟩
  · show ParserInv (notePrevious b (parseByte b s))
    rw [parseByte_filling hp, fillFrame]
    split
    · next hc =>
      have hs := cnt_succ hc
      have hn : s.cnt.toNat ≠ 0 := by
        intro h0
        have : s.cnt = 0 := BitVec.eq_of_toNat_eq h0
        have := a1.2 this; rw [hp] at this; cases this
      refine ⟨?_, ?_, a3, a4, ?_, a6⟩
      · show s.pstate = .seeking ↔ s.cnt + 1 = 0
        rw [hp]; constructor
        · nofun
        · intro h0; have := congrArg BitVec.toNat h0; rw [hs] at this; simp at this
      · intro _; show (s.pbuf.set s.cnt.toNat b)[0] = 0x0F
        rw [Vector.getElem_set_ne _ _ hn]; exact a2 hp
      · show (s.cnt + 1).toNat ≤ 24; omega
    · simp only
      split
      · next hf =>
        refine ⟨by simp [notePrevious, deliverFrame], by simp [notePrevious, deliverFrame], ?_, fun _ => rfl, by simp [notePrevious, deliverFrame], rfl⟩
        intro _
        show receivedFrameShape (s.pbuf.set 24 b) = true
        simp [receivedFrameShape, hf, a2 hp]
      · exact ⟨by simp [notePrevious, frameError], by simp [notePrevious, frameError], a3, a4, by simp [notePrevious, frameError], a6⟩

theorem EngineInv.emit {s : State} (x : Byte) (h : EngineInv s) : EngineInv (emit x s) := by
  obtain ⟨a1, a2, a3, a4⟩ := h
  have hv := a1.2.2.2.2.2.2
  cases ho : s.tovf
  · by_cases hl : s.tlen.toNat < s.cfg.lineMax
    · rw [emit_room ho hl]
      refine ⟨a1, ?_, ?_, ?_⟩
      · show (s.tlen + 1).toNat ≤ s.cfg.lineMax; rw [BitVec.toNat_add]; simp; omega
      · intro h; have h : s.tovf = true := h; rw [ho] at h; cases h
      · show (s.tbuf.set _ _).length = s.cfg.lineMax; rw [List.length_set]; exact a4
    · rw [emit_full ho (by omega)]; exact ⟨a1, Nat.zero_le _, fun _ => rfl, a4⟩
  · rw [emit_dropped ho]; exact ⟨a1, a2, a3, a4⟩

theorem EngineInv.emitAll {s : State} (bs : List Byte) (h : EngineInv s) : EngineInv (emitAll bs s) := by
  induction bs generalizing s with
  | nil => exact h
  | cons b bs ih => exact ih (h.emit b)

theorem EngineInv.chk {s : State} (c : Byte) (h : EngineInv s) : EngineInv { s with chk := c } := ⟨h.1, h.2, h.3, h.4⟩

theorem EngineInv.start {s : State} (h : EngineInv s) : EngineInv (startUnit s) := ⟨h.1, Nat.zero_le _, nofun, h.4⟩

theorem FrontUnitInv.commit {s : State} (h : FrontUnitInv s) (he : EngineInv s) : FrontUnitInv (commit s) := by
  by_cases hc : s.tovf = false ∧ 0 < s.tlen.toNat
  · rw [commit_ok s hc.1 hc.2]
    obtain ⟨e1, e2, e3, e4⟩ := he
    refine ⟨nofun, fun _ => ⟨hc.2, e2⟩, ?_, ?_⟩
    · have := h.3
      show (List.map some (s.tbuf.take s.tlen.toNat) ++ s.tfront.drop s.tlen.toNat).length = s.cfg.lineMax
      simp; omega
    · show ∀ c ∈ (List.map some (s.tbuf.take s.tlen.toNat) ++ s.tfront.drop s.tlen.toNat).take s.tlen.toNat, c.isSome = true
      rw [List.take_left' (by simp; omega)]
      intro c hc
      obtain ⟨x, _, rfl⟩ := List.mem_map.1 hc
      rfl
  · rw [commit_no s]
    · exact h
    · cases hh : s.tovf
      · right; simpa [hh] using hc
      · exact .inl rfl

end Sys2Proof.Machine
end

