-- ==== Sys2Proof/Laws/PerInstr.lean ====
section
/-! SUPPORT. The family `EncodeLength`: a command's encoding is as many bytes long as its format says (30_encoding.md R101,
R106), constructor by constructor. -/

namespace Sys2Proof

/-- The number of bytes the encoder gives a command is the length its opcode fixes. -/
def Laws.EncodeLength.Statement (i : Instr) : Prop := (encode i).length = i.length

theorem Laws.EncodeLength.rst : Laws.EncodeLength.Statement .rst := rfl

theorem Laws.EncodeLength.stat : Laws.EncodeLength.Statement .stat := rfl

theorem Laws.EncodeLength.srx (b : Byte) : Laws.EncodeLength.Statement (.srx b) := rfl

theorem Laws.EncodeLength.spoll : Laws.EncodeLength.Statement .spoll := rfl

theorem Laws.EncodeLength.senc (w : Channels) (fl : Byte) : Laws.EncodeLength.Statement (.senc w fl) := by
  simp [Laws.EncodeLength.Statement, encode, length_channelBytes, Instr.length, Instr.opcode, Opcode.format, Format.length]

theorem Laws.EncodeLength.sencp (w : Channels) (fl : Byte) : Laws.EncodeLength.Statement (.sencp w fl) := by
  simp [Laws.EncodeLength.Statement, encode, length_channelBytes, Instr.length, Instr.opcode, Opcode.format, Format.length]

theorem Laws.EncodeLength.stx : Laws.EncodeLength.Statement .stx := rfl

theorem Laws.EncodeLength.erst : Laws.EncodeLength.Statement .erst := rfl

theorem Laws.EncodeLength.eraw (b : Byte) : Laws.EncodeLength.Statement (.eraw b) := rfl

theorem Laws.EncodeLength.epush (b : Byte) : Laws.EncodeLength.Statement (.epush b) := rfl

theorem Laws.EncodeLength.echk : Laws.EncodeLength.Statement .echk := rfl

theorem Laws.EncodeLength.ecmt : Laws.EncodeLength.Statement .ecmt := rfl

theorem Laws.EncodeLength.tenc (w : Channels) : Laws.EncodeLength.Statement (.tenc w) := by
  simp [Laws.EncodeLength.Statement, encode, length_channelBytes, Instr.length, Instr.opcode, Opcode.format, Format.length]

theorem Laws.EncodeLength.ttx : Laws.EncodeLength.Statement .ttx := rfl

end Sys2Proof
end

