-- ==== Sys2Proof/Tests/Slice0.lean ====
section
/-! SUPPORT. The model's own tests: the checks of `WellFormed`, a word of every constructor written out byte by byte, one or
two steps per command with results from spec/95_test_vectors.md, and a witness for the hypotheses of every statement. -/

namespace Sys2Proof.Machine.Tests

/-! ### Helpers -/

def nextOf : Host.Outcome State Fault Refusal → Option State
  | .next t => some t
  | .fault _ => none
  | .refused _ => none

def refusalOf : Host.Outcome State Fault Refusal → Option Refusal
  | .refused r => some r
  | .next _ => none
  | .fault _ => none

/-- The reset state in `EXCFG`. -/
def base : State := State.resetWith Config.excfg

/-- `EXCFG` with another `LINE_MAX`. -/
def lineOf (n : Nat) : State := State.resetWith { Config.excfg with lineMax := n }

/-- Sixteen times one word. -/
def all16 (x : Word) : Channels := Vector.ofFn fun _ => x

/-- 95_test_vectors.md, frame `A`: 16 × 992, flags 0. -/
def frameA : Frame := #v[
   0x0F, 0xE0, 0x03, 0x1F, 0xF8, 0xC0, 0x07, 0x3E, 0xF0, 0x81, 0x0F, 0x7C, 0xE0, 0x03, 0x1F, 0xF8, 0xC0, 0x07,
   0x3E, 0xF0, 0x81, 0x0F, 0x7C, 0x00, 0x00]

/-- 95_test_vectors.md, frame `B`: `pat`, flags 0x05. -/
def frameB : Frame := #v[
   0x0F, 0x05, 0x70, 0xC4, 0x45, 0x40, 0x93, 0x22, 0x59, 0xED, 0x8C, 0x78, 0x4D, 0xB4, 0xE6, 0x57, 0xD1, 0x1B,
   0x67, 0x7D, 0x0F, 0x9E, 0x01, 0x05, 0x00]

/-- 95_test_vectors.md, `pat`. -/
def pat : Channels := #v[
   5, 142, 279, 416, 553, 690, 827, 964, 1101, 1238, 1375, 1512, 1649, 1786, 1923, 12]

/-- A parser that has received 24 bytes of `frameA` after a footer. -/
def filling24 : State := { base with pstate := .filling, cnt := 24, pbuf := frameA, prev := 0x00, prevV := true }

/-- A parser at rest behind a footer. -/
def synced : State := { base with prev := 0x00, prevV := true }

/-- A state with a received frame. -/
def received : State := { base with lframe := some frameA, lvalid := true, new := true, prevV := true }

/-- An engine with two bytes in the back buffer. -/
def twoBytes : State := { base with tbuf := 0x80 :: 0x11 :: List.replicate 30 0, tlen := 2, chk := 0x91 }

/-- A full back buffer. -/
def full : State := { base with tbuf := List.replicate 32 0x41, tlen := 32 }

/-- An overflowed engine. -/
def overflowed : State := { base with tbuf := List.replicate 32 0x41, tovf := true }

/-- A committed trainer unit of three bytes. -/
def committed : State :=
  { base with tfront := [some 0x7E, some 0x80, some 0x7E] ++ List.replicate 29 none, tflen := 3, tfv := true }

/-- An SBUS front buffer that holds `frameA`. -/
def built : State := { base with stxb := some frameA, stxv := true }

/-- CMD holds `bytes`, and it is the host's turn. -/
def onCmd (bytes : List Byte) : State := { base with cmdIn := bytes }

/-- A state far from reset in every part. -/
def busy : State :=
  { base with
    pstate := .filling, cnt := 1, pbuf := frameA, prev := 0x0F, prevV := true
    lframe := some frameB, lvalid := true, new := true, errcnt := 3
    stxb := some frameA, stxv := true
    chk := 0x91, tbuf := 0x80 :: 0x11 :: List.replicate 30 0, tlen := 2
    tfront := [some 0x7E, some 0x80, some 0x7E] ++ List.replicate 29 none, tflen := 3, tfv := true }

/-! ### WellFormed: one ill-formed term for each check (30_encoding.md R103) -/

theorem test_senc_word_2048_is_ill_formed : (Instr.senc ((all16 0).set 15 2048) 0x00).wellFormed = false := by decide

theorem test_senc_flag_10_is_ill_formed : (Instr.senc (all16 992) 0x10).wellFormed = false := by decide

theorem test_sencp_flag_80_is_ill_formed : (Instr.sencp (all16 1500) 0x80).wellFormed = false := by decide

theorem test_admitted_operands_at_the_bounds :
    (Instr.senc (all16 2047) 0x0F).wellFormed = true ∧ (Instr.sencp (all16 0xFFFF) 0x0F).wellFormed = true ∧
    (Instr.tenc (all16 0xFFFF)).wellFormed = true := by decide

/-! ### Decoding: bytes written out from R101, R102 and R104 -/

theorem test_decode_rst : decode [0x01] = .ok .rst := by decide

theorem test_decode_stat : decode [0x02] = .ok .stat := by decide

theorem test_decode_spoll : decode [0x11] = .ok .spoll := by decide

theorem test_decode_stx : decode [0x22] = .ok .stx := by decide

theorem test_decode_erst : decode [0x30] = .ok .erst := by decide

theorem test_decode_echk : decode [0x33] = .ok .echk := by decide

theorem test_decode_ecmt : decode [0x34] = .ok .ecmt := by decide

theorem test_decode_ttx : decode [0x41] = .ok .ttx := by decide

theorem test_decode_srx : decode [0x10, 0x5A, 0x01] = .ok (.srx 0x5A) := by decide

theorem test_decode_eraw : decode [0x31, 0x7E, 0x01] = .ok (.eraw 0x7E) := by decide

theorem test_decode_epush : decode [0x32, 0x7D, 0x01] = .ok (.epush 0x7D) := by decide

set_option maxRecDepth 10000 in
/-- Source: 95_test_vectors.md P2. -/
theorem test_decode_senc :
    decode [0x20,
   0x05, 0x00, 0x8E, 0x00, 0x17, 0x01, 0xA0, 0x01, 0x29, 0x02, 0xB2, 0x02, 0x3B, 0x03, 0xC4, 0x03, 0x4D, 0x04,
   0xD6, 0x04, 0x5F, 0x05, 0xE8, 0x05, 0x71, 0x06, 0xFA, 0x06, 0x83, 0x07, 0x0C, 0x00, 0x05] =
      .ok (.senc pat 0x05) := by decide

set_option maxRecDepth 10000 in
/-- Source: R102; the words 1500 = 0x05DC, low byte first. -/
theorem test_decode_sencp :
    decode ([0x21] ++ (List.replicate 16 [0xDC, 0x05]).flatten ++ [0x08]) = .ok (.sencp (all16 1500) 0x08) := by decide

set_option maxRecDepth 10000 in
/-- Source: 95_test_vectors.md P3. -/
theorem test_decode_tenc :
    decode ([0x40, 0x7E, 0x00] ++ (List.replicate 15 [0xE0, 0x03]).flatten) = .ok (.tenc ((all16 992).set 0 0x07E)) := by
  decide

/-- Source: 95_test_vectors.md CT-3, CT-4: reserved, and cut short. -/
theorem test_decode_refusals :
    decode [0x03, 0x02] = .error .reservedOpcode ∧ decode [0x10] = .error .truncated ∧
    decode [] = .error .noCommand := by decide

set_option maxRecDepth 10000 in
/-- Source: 95_test_vectors.md CT-5, CT-6. -/
theorem test_decode_ill_formed :
    decode ([0x20, 0x00, 0x08] ++ List.replicate 31 0x00) = .error .illFormed ∧
    decode ([0x20] ++ List.replicate 32 0x00 ++ [0x10]) = .error .illFormed := by decide

set_option maxRecDepth 10000 in
theorem test_encode_senc : encode (.senc pat 0x05) = [0x20,
   0x05, 0x00, 0x8E, 0x00, 0x17, 0x01, 0xA0, 0x01, 0x29, 0x02, 0xB2, 0x02, 0x3B, 0x03, 0xC4, 0x03, 0x4D, 0x04,
   0xD6, 0x04, 0x5F, 0x05, 0xE8, 0x05, 0x71, 0x06, 0xFA, 0x06, 0x83, 0x07, 0x0C, 0x00, 0x05] := by
  decide

set_option maxRecDepth 10000 in
/-- The table's words are the opcode byte alone; the operand bytes above it are 0. -/
theorem test_table_words :
    decodeTableWord 8 0x40 = some (.tenc (all16 0)) ∧ decodeTableWord 16 0x5A10 = some (.srx 0x5A) ∧
    decodeTableWord 8 0x03 = none := by decide

set_option maxRecDepth 10000 in
/-- The step after `withFetchWord` runs the word's command: `EPUSH 0x7D` from reset. -/
theorem test_with_fetch_word :
    ((nextOf (step (State.reset.withFetchWord 16 0x7D32))).map fun t => (t.chk, t.tlen, t.cmdIn, t.cmdPos)) =
      some (0x7D, 2, [], 2) := by decide

set_option maxRecDepth 10000 in
/-- The opcode byte of every row runs as the first command after reset. -/
theorem test_every_row_runs_from_reset :
    ([0x01, 0x02, 0x10, 0x11, 0x20, 0x21, 0x22, 0x30, 0x31, 0x32, 0x33, 0x34, 0x40, 0x41].all fun w =>
      (nextOf (step (State.reset.withFetchWord 8 w))).isSome) = true := by decide

/-! ### One step of each command -/

set_option maxRecDepth 10000 in
/-- Source: 44_control.md R220. -/
theorem test_rst_clears_the_registers :
    ((nextOf (exec .rst busy)).map fun t => (t.pstate, t.errcnt, t.tlen)) = some (.seeking, 0, 0) ∧
    ((nextOf (exec .rst busy)).map fun t => (t.lframe, t.stxv, t.tflen)) = some (none, false, 0) := by decide

set_option maxRecDepth 10000 in
/-- Source: 95_test_vectors.md CT-2. -/
theorem test_stat_after_one_byte :
    ((nextOf (exec .stat synced)).map fun t => t.rsp) =
      some [[0x00, 0x01, 0x00, 0x00, 0x00, 0x00, 0x00, 0x00, 0x00, 0x00, 0x00, 0x00]] := by decide

set_option maxRecDepth 10000 in
/-- Source: 95_test_vectors.md SD-11: `W0 = 0x00810195`, and EN-9: `W0 = 0x7E000400`. -/
theorem test_stat_words :
    statusW0 { received with pstate := .filling, cnt := 10, prev := 0x81, new := false } = 0x00810195 ∧
    statusW0 { base with chk := 0x7E, tovf := true } = 0x7E000400 := by decide

set_option maxRecDepth 10000 in
/-- Source: 95_test_vectors.md SD-4. -/
theorem test_srx_starts_a_frame_after_footer_F4_only :
    ((nextOf (exec (.srx 0x0F) { synced with prev := 0xF4 })).map fun t => (t.pstate, t.cnt)) = some (.filling, 1) ∧
    ((nextOf (exec (.srx 0x0F) { synced with prev := 0x40 })).map fun t => (t.pstate, t.cnt)) = some (.seeking, 0) := by decide

set_option maxRecDepth 10000 in
/-- Source: 95_test_vectors.md SD-5. -/
theorem test_srx_closes_a_frame :
    ((nextOf (exec (.srx 0x14) filling24)).map fun t => (statusW0 t, statusW1 t)) = some (0x001401C0, 0) ∧
    ((nextOf (exec (.srx 0x40) filling24)).map fun t => (statusW0 t, statusW1 t)) = some (0x00400100, 1) := by decide

set_option maxRecDepth 10000 in
/-- Source: 95_test_vectors.md SD-3. -/
theorem test_spoll_without_a_frame :
    ((nextOf (exec .spoll synced)).map fun t => t.rsp) = some [[0x00]] := by decide

set_option maxRecDepth 10000 in
/-- Source: 95_test_vectors.md SD-2. -/
theorem test_spoll_reports_frame_A :
    ((nextOf (exec .spoll received)).map fun t => (t.rsp, t.new)) =
      some ([[0x03] ++ frameA.toList ++ (List.replicate 16 [0xE0, 0x03]).flatten ++
        (List.replicate 16 [0xDC, 0x05]).flatten ++ [0x00]], false) := by decide

set_option maxRecDepth 10000 in
/-- Source: 95_test_vectors.md P2. -/
theorem test_senc_builds_frame_B :
    ((nextOf (exec (.senc pat 0x05) base)).map fun t => (t.stxb, t.stxv)) = some (some frameB, true) := by decide

set_option maxRecDepth 10000 in
/-- Source: 95_test_vectors.md SE-12. -/
theorem test_senc_refuses_2048 :
    refusalOf (exec (.senc ((all16 0).set 0 2048) 0x00) base) = some (.illFormed 0) := by decide

set_option maxRecDepth 10000 in
/-- Source: 95_test_vectors.md SE-8. -/
theorem test_sencp_scales_1500_to_992 :
    ((nextOf (exec (.sencp (all16 1500) 0x00) base)).map fun t => t.stxb) = some (some frameA) := by decide

set_option maxRecDepth 10000 in
/-- Source: 95_test_vectors.md SE-10. -/
theorem test_stx_sends_frame_A :
    ((nextOf (exec .stx built)).map fun t => t.sbusTx) = some frameA.toList ∧
    ((nextOf (exec .stx base)).map fun t => t.sbusTx) = some [] := by decide

set_option maxRecDepth 10000 in
/-- Source: 95_test_vectors.md EN-1. -/
theorem test_erst :
    ((nextOf (exec .erst { base with chk := 0x5A, tlen := 7 })).map fun t => (statusW0 t, statusW1 t)) = some (0, 0) := by decide

set_option maxRecDepth 10000 in
/-- Source: 95_test_vectors.md EN-2. -/
theorem test_eraw_is_raw :
    ((nextOf (exec (.eraw 0x7E) base)).map fun t => (t.tbuf.take 1, t.tlen, t.chk)) = some ([0x7E], 1, 0x00) := by decide

set_option maxRecDepth 10000 in
/-- Source: 95_test_vectors.md EN-8. -/
theorem test_eraw_overflow :
    ((nextOf (exec (.eraw 0x41) full)).map fun t => (statusW0 t, t.tlen)) = some (0x00000400, 0) := by decide

set_option maxRecDepth 10000 in
/-- Source: 95_test_vectors.md EN-3. -/
theorem test_epush_stuffs :
    ((nextOf (exec (.epush 0x7E) base)).map fun t => (t.tbuf.take 2, statusW0 t, statusW1 t)) =
      some ([0x7D, 0x5E], 0x7E000000, 0x00020000) := by decide

set_option maxRecDepth 10000 in
/-- Source: 95_test_vectors.md EN-9. -/
theorem test_epush_pair_that_partly_fits :
    ((nextOf (exec (.epush 0x7E) { full with tlen := 31 })).map fun t => statusW0 t) = some 0x7E000400 := by decide

set_option maxRecDepth 10000 in
/-- Source: 95_test_vectors.md EN-6. -/
theorem test_echk_pushes_the_old_value :
    ((nextOf (exec .echk { base with tbuf := 0x80 :: List.replicate 31 0, tlen := 1, chk := 0x80 })).map fun t =>
      (t.tbuf.take 2, t.chk)) = some ([0x80, 0x80], 0x00) := by decide

set_option maxRecDepth 10000 in
/-- Source: 95_test_vectors.md EN-11. -/
theorem test_ecmt_commits_one_byte_and_no_empty_unit :
    ((nextOf (exec .ecmt { base with tbuf := 0x7E :: List.replicate 31 0, tlen := 1 })).map fun t =>
      (t.tfront.take 2, t.tflen, t.tfv)) = some ([some 0x7E, none], 1, true) ∧
    ((nextOf (exec .ecmt base)).map fun t => t.tfv) = some false := by decide

set_option maxRecDepth 10000 in
/-- Source: 95_test_vectors.md P3. -/
theorem test_tenc_stuffs_a_packed_byte :
    ((nextOf (exec (.tenc ((all16 992).set 0 0x07E)) base)).map fun t => (t.tfront.take 29, t.tflen)) =
      some (([0x7E, 0x80, 0x7D, 0x5E, 0x0E, 0x03] ++ (List.replicate 7 [0xE0, 0x3E, 0x03]).flatten ++ [0x2E, 0x7E]).map some, 29) := by decide

set_option maxRecDepth 10000 in
/-- Source: 95_test_vectors.md TE-10. -/
theorem test_tenc_overflow :
    ((nextOf (exec (.tenc (all16 0x7E)) base)).map fun t => (statusW0 t, t.tfv)) = some (0x00000400, false) := by decide

set_option maxRecDepth 10000 in
/-- Source: 43_trainer_encoder.md R202, 95_test_vectors.md TE-11. -/
theorem test_ttx_sends_the_committed_bytes :
    ((nextOf (exec .ttx committed)).map fun t => t.bleTx) = some [[0x7E, 0x80, 0x7E]] ∧
    ((nextOf (exec .ttx base)).map fun t => t.bleTx) = some [] := by decide

set_option maxRecDepth 10000 in
/-- Source: 95_test_vectors.md SD-1 and SE-7. -/
theorem test_scalings :
    [0, 175, 985, 993, 2047].map (fun n => (toPwm Config.excfg (BitVec.ofNat 11 n)).toNat) = [988, 989, 1495, 1500, 2012] ∧
    [500, 987, 1499, 2013, 3000].map (fun n => (toRaw Config.excfg (BitVec.ofNat 16 n)).toNat) = [0, 171, 990, 1812, 2047] := by decide

set_option maxRecDepth 10000 in
/-- Source: 95_test_vectors.md CT-3: the second command of `02 03 02`. -/
theorem test_refused_at_its_own_offset :
    refusalOf (step { onCmd [0x03, 0x02] with cmdPos := 1 }) = some (.reservedOpcode 1) := by decide

/-! ### Witnesses: a state and operands that meet the hypotheses of each statement -/

theorem witness_DecodeOfEncodedCommand : (Instr.senc pat 0x0F).wellFormed = true := by decide

theorem witness_EncodeOfDecodedCommand : decode [0x32, 0x7D, 0x01] = .ok (.epush 0x7D) := by decide

theorem witness_ReservedOpcodesAreRefused :
    (onCmd [0x03, 0x02]).acceptOrder.headD .host = .host ∧ (onCmd [0x03, 0x02]).cmdIn = 0x03 :: [0x02] ∧
    decode [0x03, 0x02] = .error .reservedOpcode := by decide

set_option maxRecDepth 10000 in
theorem witness_StreamEndingInsideACommandIsRefused :
    (encode (.senc pat 0x05)).head? = (encode (.senc (all16 0) 0x10)).head? ∧
    (onCmd ((encode (.senc pat 0x05)).take 33)).acceptOrder.headD .host = .host ∧ 0 < 33 ∧
    33 < (encode (.senc pat 0x05)).length := by decide

theorem witness_IllFormedCommandsAreRefused :
    (Instr.senc pat 0x10).wellFormed = false ∧
    (onCmd (encode (.senc pat 0x10) ++ [0x01])).acceptOrder.headD .host = .host ∧
    (Instr.stx).opcode.format = .f0 ∧ (Instr.srx 0xFF).opcode.format = .f1 := by decide

set_option maxRecDepth 10000 in
theorem witness_RefusalHasExactlyThreeCauses :
    step (onCmd [0x03]) = .refused (.reservedOpcode 0) ∧ step (onCmd [0x10]) = .refused (.truncated 0) ∧
    decode (encode (.senc (all16 0) 0x10)) = .error .illFormed := ⟨rfl, rfl, by decide⟩

theorem witness_StepRunsTheDecodedCommand :
    (onCmd [0x32, 0x7D, 0x01]).acceptOrder.headD .host = .host ∧
    decode (onCmd [0x32, 0x7D, 0x01]).cmdIn = .ok (.epush 0x7D) := by decide

/-- A state in which it is the byte source's turn twice, then the host's. -/
def turnOfTheSource : State :=
  { synced with sbusRx := [0x0F, 0xAA, 0x00], acceptOrder := [.sbusSource, .sbusSource, .host] }

theorem witness_StepRunsAReceivedByteAsSrx :
    turnOfTheSource.acceptOrder = .sbusSource :: [.sbusSource, .host] ∧ turnOfTheSource.sbusRx = 0x0F :: [0xAA, 0x00] := by
  decide

theorem witness_StepHoldsItsStateWithNothingToAccept :
    busy.acceptOrder.headD .host = .host ∧ busy.cmdIn = [] ∧
    ({ busy with acceptOrder := [.sbusSource] } : State).acceptOrder = .sbusSource :: [] ∧ busy.sbusRx = [] := by decide

theorem witness_BatchOfBytesIsOneSrxPerByte :
    turnOfTheSource.acceptOrder = List.replicate [(0x0F : Byte), 0xAA].length .sbusSource ++ [.host] ∧
    turnOfTheSource.sbusRx = [0x0F, 0xAA] ++ [0x00] := by decide

theorem witness_SrxFollowsTheParserRule :
    (synced.pstate = .seeking ∧ synced.prevV = true ∧ synced.prev = 0x00) ∧
    (base.pstate = .seeking ∧ ¬((0x0F : Byte) = 0x0F ∧ base.prevV = true ∧ (base.prev = 0x00 ∨ base.prev.extractLsb' 0 4 = 4))) ∧
    (busy.pstate = .filling ∧ busy.cnt.toNat < 24) ∧ ({ busy with cnt := 23 } : State).cnt.toNat < 24 ∧
    (filling24.pstate = .filling ∧ filling24.cnt.toNat = 24) ∧ (0xF4 : Byte).extractLsb' 0 4 = 4 ∧
    ¬((0x40 : Byte) = 0x00 ∨ (0x40 : Byte).extractLsb' 0 4 = 4) := by decide

theorem witness_StartedFrameRunsToTwentyFiveBytes :
    (busy.pstate = .filling ∧ busy.cnt.toNat + (List.replicate 23 (0x0F : Byte)).length = 24) ∧
    (filling24.pstate = .filling ∧ filling24.cnt.toNat + ([] : List Byte).length = 24) := by decide

theorem witness_FrameAcceptanceDependsOnHeaderAndFooterOnly :
    (synced.pstate = .seeking ∧ synced.prevV = true ∧ isFooter synced.prev = true) ∧
    (frameB[0] = 0x0F ∧ isFooter frameB[24] = true) ∧
    ((frameB.set 24 0xFF)[0] = 0x0F ∧ isFooter (frameB.set 24 0xFF)[24] = false) ∧
    (base.pstate = .seeking ∧ ¬(base.prevV = true ∧ isFooter base.prev = true ∧ frameB[0] = 0x0F)) := by decide

theorem witness_FramingErrorIsCountedAndRecovered :
    filling24.pstate = .filling ∧ filling24.cnt.toNat = 24 ∧ isFooter 0xFF = false := by decide

theorem witness_SpollReportsTheLatestFrame :
    base.lvalid = false ∧ received.lvalid = true ∧ received.lframe = some frameA := by decide

theorem witness_LatestCompletedFrameWins :
    (deliveredFrames [0x04] filling24).getLast? = some (frameA.set 24 0x04) ∧ deliveredFrames [0xFF] filling24 = [] := by
  decide

theorem witness_QueryAndTransmitSideEffects : busy.lvalid = true ∧ busy.lframe = some frameB := by decide

theorem witness_PackingAndUnpackingAreInverse :
    frameB[0] = 0x0F ∧ frameB[23].extractLsb' 4 4 = 0 ∧ frameB[24] = 0x00 := by decide

theorem witness_PwmMappingRoundsDownAndClamps : Config.excfg.Valid := by decide

theorem witness_RawMappingRoundsDownAndClamps : Config.excfg.Valid := by decide

theorem witness_PwmRoundTripErrorIsBounded :
    synced.cfg.Valid ∧ (Instr.sencp (all16 989) 0x0F).wellFormed = true ∧ synced.pstate = .seeking ∧
    synced.prevV = true ∧ isFooter synced.prev = true ∧
    (∀ (k : Nat) (h : k < 16), synced.cfg.minPwm ≤ (all16 989)[k].toNat ∧ (all16 989)[k].toNat ≤ synced.cfg.maxPwm ∧
      0 ≤ 992 + Int.fdiv ((((all16 989)[k].toNat : Int) - synced.cfg.ppmCenter) * synced.cfg.scaleNum) synced.cfg.scaleDen ∧
      992 + Int.fdiv ((((all16 989)[k].toNat : Int) - synced.cfg.ppmCenter) * synced.cfg.scaleNum) synced.cfg.scaleDen
        ≤ 2047) := by
  refine ⟨by decide, by decide, by decide, by decide, by decide, ?_⟩
  intro k h
  have e : (all16 989)[k] = 989 := by simp [all16]
  rw [e]
  decide

theorem witness_SencBuildsTheFrontFrame :
    (Instr.senc (all16 2047) 0x0F).wellFormed = true ∧ 2047 < (all16 2048)[15].toNat ∧ (0x10 : Byte).extractLsb' 4 4 ≠ 0 := by
  decide

theorem witness_SencpBuildsTheScaledFrontFrame :
    (Instr.sencp (all16 0xFFFF) 0x0F).wellFormed = true ∧ base.cfg.Valid ∧
    (Instr.sencp (Vector.replicate 16 0) 0x05).wellFormed = true ∧ (0x80 : Byte).extractLsb' 4 4 ≠ 0 := by decide

theorem witness_StxSendsTheFrontFrame :
    (built.stxv = true ∧ built.stxb = some frameA) ∧ base.stxv = false := by decide

theorem witness_ErawIsABoundedWrite :
    overflowed.tovf = true ∧
    (full.cfg.Valid ∧ ({ full with tlen := 31 } : State).tbuf.length = full.cfg.lineMax ∧
      ({ full with tlen := 31 } : State).tlen.toNat < full.cfg.lineMax) ∧
    (full.tovf = false ∧ full.cfg.lineMax ≤ full.tlen.toNat) := by decide

theorem witness_EpushChecksumsThenStuffs : ((0x11 : Byte) ≠ 0x7E ∧ (0x11 : Byte) ≠ 0x7D) := by decide

theorem witness_EchkPushesTheChecksum :
    (twoBytes.chk ≠ 0x7E ∧ twoBytes.chk ≠ 0x7D) ∧ ({ twoBytes with chk := 0x7E } : State).chk = 0x7E ∧
    ({ twoBytes with chk := 0x7D } : State).chk = 0x7D := by decide

theorem witness_EcmtCommitsTheBackBuffer :
    (twoBytes.tovf = false ∧ 0 < twoBytes.tlen.toNat ∧ twoBytes.tlen.toNat ≤ twoBytes.cfg.lineMax ∧
      twoBytes.tbuf.length = twoBytes.cfg.lineMax ∧ twoBytes.tfront.length = twoBytes.cfg.lineMax) ∧
    full.tlen.toNat = full.cfg.lineMax ∧ overflowed.tovf = true ∧ base.tlen = 0 := by decide

theorem witness_ChecksumIsOverUnstuffedBytes :
    ∀ i ∈ [Instr.epush 0x7E, Instr.eraw 0x7E], ∃ b, i = .epush b ∨ i = .eraw b := by
  intro i hi
  rcases List.mem_cons.1 hi with rfl | hi
  · exact ⟨0x7E, .inl rfl⟩
  · exact ⟨0x7E, .inr (List.mem_singleton.1 hi)⟩

/-- A payload that fills the line exactly, and one byte more. -/
theorem witness_EngineSequenceBuildsTheFramedUnit :
    (base.cfg.Valid ∧ base.tbuf.length = base.cfg.lineMax ∧ base.tfront.length = base.cfg.lineMax) ∧
    (framedUnit 0x7E (List.replicate 29 0x11)).length ≤ base.cfg.lineMax ∧
    base.cfg.lineMax < (framedUnit 0x7E (List.replicate 30 0x11)).length := by decide

theorem witness_OverflowLastsUntilANewUnit :
    overflowed.tovf = true ∧ overflowed.tlen = 0 ∧ exec (.eraw 0x41) overflowed = .next overflowed := ⟨rfl, rfl, rfl⟩

set_option maxRecDepth 10000 in
theorem witness_TencBuildsAndCommitsTheTrainerFrame :
    ((lineOf 28).cfg.Valid ∧ (lineOf 28).tbuf.length = (lineOf 28).cfg.lineMax ∧
      (trainerFrame (all16 992)).length ≤ (lineOf 28).cfg.lineMax) ∧
    ((lineOf 27).cfg.Valid ∧ (lineOf 27).tbuf.length = (lineOf 27).cfg.lineMax ∧
      (lineOf 27).cfg.lineMax < (trainerFrame (all16 992)).length) := by decide

theorem witness_TtxSendsTheCommittedFrame :
    (committed.tfv = true ∧ committed.tfront = [0x7E, 0x80, 0x7E].map some ++ List.replicate 29 none ∧
      committed.tflen.toNat = [(0x7E : Byte), 0x80, 0x7E].length) ∧ base.tfv = false := by decide

/-- TE-8's operands: every packed byte is stuffed. -/
def worst : Channels := Vector.ofFn fun i : Fin 16 => if i.val % 2 = 0 then 0x77E else 0xEE7

set_option maxRecDepth 10000 in
theorem witness_TrainerFrameLengthBounds :
    (packedPairs worst).all needsStuffing = true ∧ (lineOf 52).cfg.Valid ∧
    (lineOf 52).tbuf.length = (lineOf 52).cfg.lineMax ∧ 52 ≤ (lineOf 52).cfg.lineMax := by decide

theorem witness_ShortLinesMakeTencOverflow :
    ((lineOf 51).cfg.Valid ∧ (lineOf 51).tbuf.length = (lineOf 51).cfg.lineMax ∧ (lineOf 51).cfg.lineMax < 52) ∧
    ((lineOf 27).cfg.Valid ∧ (lineOf 27).tbuf.length = (lineOf 27).cfg.lineMax ∧ (lineOf 27).cfg.lineMax < 28) ∧
    ((lineOf 52).cfg.Valid ∧ (lineOf 52).tbuf.length = (lineOf 52).cfg.lineMax ∧ 52 ≤ (lineOf 52).cfg.lineMax) := by
  decide

set_option maxRecDepth 10000 in
theorem witness_EqualPairsGiveChecksum80 :
    (∀ (k : Nat) (h : k < 8), pack3 worst[0] worst[1] = pack3 worst[2 * k] worst[2 * k + 1]) ∧
    (lineOf 52).cfg.Valid ∧ (lineOf 52).tbuf.length = (lineOf 52).cfg.lineMax ∧
    (trainerFrame worst).length ≤ (lineOf 52).cfg.lineMax := by decide

theorem witness_TransmitDuringABuildSendsTheLastCommit :
    ∀ i ∈ [Instr.erst, Instr.echk], i = .erst ∨ i = .echk ∨ ∃ b, i = .eraw b ∨ i = .epush b := by
  intro i hi
  rcases List.mem_cons.1 hi with rfl | hi
  · exact .inl rfl
  · exact .inr (.inl (List.mem_singleton.1 hi))

theorem witness_EveryAdmittedCommandCompletes : (Instr.senc pat 0x05).wellFormed = true := by decide

/-- A flag before and after a command. -/
def flagAcross (f : State → Bool) (i : Instr) (s : State) : Option (Bool × Bool) := (nextOf (exec i s)).map fun t => (f s, f t)

set_option maxRecDepth 10000 in
theorem witness_FlagsChangeOnlyAsTheTableSays :
    flagAcross State.new (.srx 0x00) filling24 = some (false, true) ∧ flagAcross State.new .spoll received = some (true, false) ∧
    flagAcross State.lvalid (.srx 0x00) filling24 = some (false, true) ∧ flagAcross State.lvalid .rst received = some (true, false) ∧
    flagAcross State.prevV (.srx 0x00) base = some (false, true) ∧ flagAcross State.prevV .rst received = some (true, false) ∧
    flagAcross State.stxv (.senc pat 0x05) base = some (false, true) ∧ flagAcross State.stxv .rst built = some (true, false) ∧
    flagAcross State.tovf (.eraw 0x41) full = some (false, true) ∧ flagAcross State.tovf .erst overflowed = some (true, false) ∧
    flagAcross State.tfv .ecmt twoBytes = some (false, true) ∧ flagAcross State.tfv .rst committed = some (true, false) := by
  decide

set_option maxRecDepth 10000 in
theorem witness_BuffersHaveOnlyTheirWriters :
    ((nextOf (exec (.senc pat 0x05) base)).map fun t => decide (t.stxb ≠ base.stxb)) = some true ∧
    ((nextOf (exec .ecmt twoBytes)).map fun t => decide (t.tfront ≠ twoBytes.tfront)) = some true ∧
    ((nextOf (exec (.eraw 0x41) base)).map fun t => decide (t.tbuf ≠ base.tbuf)) = some true ∧
    ((nextOf (exec (.srx 0x00) filling24)).map fun t => decide (t.lframe ≠ filling24.lframe)) = some true := by decide

set_option maxRecDepth 10000 in
theorem witness_OutputIsNeverWithdrawn :
    ((nextOf (exec .stx built)).map fun t => decide (t.sbusTx ≠ built.sbusTx)) = some true ∧
    ((nextOf (exec .ttx committed)).map fun t => decide (t.bleTx ≠ committed.bleTx)) = some true ∧
    ((nextOf (exec .stat base)).map fun t => decide (t.rsp ≠ base.rsp)) = some true := by decide

theorem witness_CommandsKeepParametersAndPendingInput : exec .ecmt base = .next base := rfl

theorem witness_ReceptionCommutesWithTransmission :
    (Instr.senc pat 0x05).wellFormed = true ∧ Instr.senc pat 0x05 ≠ .rst ∧ Instr.senc pat 0x05 ≠ .stat ∧
    Instr.senc pat 0x05 ≠ .spoll ∧ ∀ c, Instr.senc pat 0x05 ≠ .srx c := ⟨by decide, nofun, nofun, nofun, nofun⟩

theorem witness_InvariantHoldsAtReset : Config.excfg.Valid ∧ (lineOf 65535).cfg.Valid ∧ (lineOf 1).cfg.Valid := by decide

set_option maxRecDepth 10000 in
/-- The invariant holds in a state far from reset, and a step from it answers. -/
theorem witness_InvariantIsKeptByEveryStep : busy.Inv ∧ ∃ t, step busy = .next t :=
  ⟨(inv_iff busy).2 ⟨⟨by decide, by decide, by decide, by decide, by decide, by decide⟩, ⟨by decide, by decide⟩,
    ⟨by decide, by decide, by decide, by decide⟩, ⟨by decide, by decide, by decide, by decide⟩⟩, _, rfl⟩

theorem witness_InvariantsOfR40HoldInEveryReachableState :
    Config.excfg.Valid ∧
    ∃ t, Host.Core.run core 3 { State.resetWith Config.excfg with
      cmdIn := [0x30, 0x31, 0x7E], sbusRx := [0x00], acceptOrder := [.host, .sbusSource] } = .next t :=
  ⟨by decide, _, rfl⟩

/-- Two states that differ in a byte of `PBUF` and one of `TBUF` that no rule reads. -/
theorem witness_UnreadBytesAreNeverObserved :
    twoBytes.SameButUnread { twoBytes with pbuf := frameA, tbuf := twoBytes.tbuf.set 31 0xAA } ∧
    twoBytes.pbuf ≠ frameA ∧ twoBytes.tbuf.set 31 0xAA ≠ twoBytes.tbuf :=
  ⟨⟨rfl, fun i _ h => absurd h (Nat.not_lt_zero i), by decide, by decide⟩, by decide, by decide⟩

end Sys2Proof.Machine.Tests
end

section
/-! PROOFS. The invariant along a run (10_state.md R40): reset meets it, each command and each step keeps it, so it holds in
every reachable state. -/

namespace Sys2Proof.Machine

/-! ### What one step, and one run, can do -/

/-- The inversion of `step`: the block waits, or it runs one command and moves past it. -/
theorem step_cases {s t : State} (h : step s = .next t) :
    t = passTurn s ∨ ∃ i u, exec i s = .next u ∧ t = passCommand (turn s) i u := by
  unfold step at h
  split at h
  · cases h
  · exact .inl (Host.Outcome.next.inj h).symm
  · next i _ =>
    cases hu : exec i s with
    | next u => rw [hu] at h; exact .inr ⟨i, u, hu, (Host.Outcome.next.inj h).symm⟩
    | fault r => rw [hu] at h; cases h
    | refused r => rw [hu] at h; cases h

/-- What every step keeps, every run keeps. -/
theorem run_induction {M : Host.Core} {P : M.State → Prop} (hstep : ∀ s t, P s → M.step s = .next t → P t) {k : Nat}
    {s t : M.State} (hs : P s) (hrun : M.run k s = .next t) : P t := by
  induction k generalizing s with
  | zero => cases hrun; exact hs
  | succ k ih =>
    rw [Host.Core.run] at hrun
    cases hu : M.step s with
    | next u => rw [hu] at hrun; exact ih (hstep s u hs hu) hrun
    | fault r => rw [hu] at hrun; cases hrun
    | refused r => rw [hu] at hrun; cases hrun

/-! ### Each kind of write keeps the invariant

An operation that writes one part of the registers keeps the whole invariant as soon as it keeps that part. -/

theorem State.Inv.parserInv {s : State} (h : s.Inv) : ParserInv s := { h with }

theorem State.Inv.engineInv {s : State} (h : s.Inv) : EngineInv s := { h with }

theorem State.Inv.frontUnitInv {s : State} (h : s.Inv) : FrontUnitInv s := { h with }

theorem State.Inv.of_parser_write {s t : State} (h : s.Inv) (hframe : t = withParserOf t s) (ht : ParserInv t) : t.Inv := by
  rw [hframe] at ht ⊢
  exact { ht, h with }

theorem State.Inv.of_engine_write {s t : State} (h : s.Inv) (hframe : t = withEngineOf t s) (ht : EngineInv t) : t.Inv := by
  rw [hframe] at ht ⊢
  exact { ht, h with }

theorem State.Inv.of_front_write {s t : State} (h : s.Inv) (hframe : t = withFrontOf t s) (ht : FrontUnitInv t) : t.Inv := by
  rw [hframe] at ht ⊢
  exact { ht, h with }

theorem State.Inv.after_rxByte {s : State} (b : Byte) (h : s.Inv) : (rxByte b s).Inv :=
  h.of_parser_write (rxByte_eq b s) (h.parserInv.rx b)

theorem State.Inv.after_emitAll {s : State} (bs : List Byte) (h : s.Inv) : (emitAll bs s).Inv :=
  h.of_engine_write (emitAll_frame bs s) (h.engineInv.emitAll bs)

theorem State.Inv.after_emit {s : State} (x : Byte) (h : s.Inv) : (emit x s).Inv := h.after_emitAll [x]

/-- `CHK` is unconstrained. -/
theorem State.Inv.with_chk {s : State} (c : Byte) (h : s.Inv) : { s with chk := c }.Inv := { h with }

theorem State.Inv.after_push {s : State} (x : Byte) (h : s.Inv) : (push x s).Inv := (h.with_chk _).after_emitAll _

theorem State.Inv.after_startUnit {s : State} (h : s.Inv) : (startUnit s).Inv :=
  h.of_engine_write rfl h.engineInv.start

theorem State.Inv.after_buildTrainerFrame {s : State} (w : Channels) (h : s.Inv) : (buildTrainerFrame w s).Inv := by
  rw [buildTrainer_eq]
  exact (h.after_startUnit.after_emitAll _).with_chk _

theorem State.Inv.after_commit {s : State} (h : s.Inv) : (commit s).Inv :=
  h.of_front_write (commit_frame s).1 (h.frontUnitInv.commit h.engineInv)

theorem State.Inv.after_storeFrontFrame {s : State} {F : Frame} (h : s.Inv) (hF : builtFrameShape F = true) :
    (storeFrontFrame F s).Inv :=
  { h with stxv_has_frame := fun _ => hF, stxb_iff := rfl }

theorem State.Inv.after_resetRegisters {s : State} (h : s.Inv) : (resetRegisters s).Inv :=
  (inv_iff _).2 ⟨.reset rfl rfl rfl rfl rfl, ⟨nofun, rfl⟩, ⟨h.cfg_valid, Nat.zero_le _, nofun, by simp⟩,
    .reset rfl rfl (by simp)⟩

/-! ### Commands, steps and runs -/

/-- Every command keeps the invariant, by the one shared operation it comes to. -/
theorem State.Inv.after_exec {i : Instr} {s t : State} (h : s.Inv) (he : exec i s = .next t) : t.Inv := by
  have hshape := exec_shape he
  cases i with
  | rst => cases hshape; exact h.after_resetRegisters
  | stat => obtain ⟨_, rfl⟩ := hshape; exact { h with }
  | srx b => cases hshape; exact h.after_rxByte b
  | spoll => obtain ⟨_, rfl⟩ := hshape; exact { h with new_lvalid := nofun }
  | senc w fl => obtain ⟨_, rfl, hF⟩ := hshape; exact h.after_storeFrontFrame hF
  | sencp w fl => obtain ⟨_, rfl, hF⟩ := hshape; exact h.after_storeFrontFrame hF
  | stx => obtain ⟨_, rfl⟩ := hshape; exact { h with }
  | erst => cases hshape; exact h.after_startUnit
  | eraw b => cases hshape; exact h.after_emit b
  | epush b => cases hshape; exact h.after_push b
  | echk => cases hshape; exact h.after_push _
  | ecmt => cases hshape; exact h.after_commit
  | tenc w => cases hshape; exact (h.after_buildTrainerFrame w).after_commit
  | ttx => obtain ⟨_, rfl⟩ := hshape; exact { h with }

theorem State.Inv.after_passCommand {s : State} (a : Agent) (i : Instr) (h : s.Inv) : (passCommand a i s).Inv := by
  cases a with
  | host => exact { h with }
  | sbusSource => exact { h with }

/-- Every step keeps the invariant. -/
theorem State.Inv.after_step {s t : State} (h : s.Inv) (hs : step s = .next t) : t.Inv := by
  obtain rfl | ⟨i, u, hu, rfl⟩ := step_cases hs
  · exact { h with }
  · exact (h.after_exec hu).after_passCommand _ i

/-- Power-on reset meets the invariant (10_state.md section 8). -/
theorem inv_resetWith {c : Config} (hc : c.Valid) : (State.resetWith c).Inv :=
  (inv_iff _).2 ⟨.reset rfl rfl rfl rfl rfl, ⟨nofun, rfl⟩, ⟨hc, Nat.zero_le _, nofun, List.length_replicate⟩,
    .reset rfl rfl List.length_replicate⟩

/-- Settles O56: the invariant `State.Inv`, which contains R40, holds at reset with any input pending, and every step
keeps it. -/
theorem invariantsOfR40HoldInEveryReachableState : Obligations.InvariantsOfR40HoldInEveryReachableState := by
  intro c cmds rx order k t hc hrun
  have hstart : { State.resetWith c with cmdIn := cmds, sbusRx := rx, acceptOrder := order }.Inv :=
    { inv_resetWith hc with }
  exact (run_induction (M := core) (P := State.Inv) (fun _ _ => State.Inv.after_step) hstart hrun).toR40

end Sys2Proof.Machine
end

section
/-! PROOFS. Memory access and ordering (20_memory.md): the side effects of the queries and transmits (R70), and the byte
order inside a trainer pair (R63). -/

namespace Sys2Proof.Machine

/-! ### What each query and transmit answers -/

/-- SPOLL with a frame (40_sbus_decoder.md R127): the report on RSP, then `NEW <- 0`. -/
theorem exec_spoll_of_frame {s : State} {F : Frame} (hv : s.lvalid = true) (hF : s.lframe = some F) :
    exec .spoll s = .next { respond (pollReport s.cfg s.new F) s with new := false } := by
  have hresponse : pollResponse s = pollReport s.cfg s.new F := by rw [pollResponse, if_pos hv, latestFrame, hF]; rfl
  rw [exec, execSpoll, hresponse]

/-- STAT (44_control.md R221) comes to one response. -/
theorem exec_stat (s : State) :
    exec .stat s = .next (respond (le32 (statusW0 s) ++ le32 (statusW1 s) ++ le32 (statusW2 s)) s) := rfl

/-- The bytes STX sends (41_sbus_encoder.md R165): the front frame, or nothing while there is none. -/
def stxSent (s : State) : List Byte := if s.stxv then (frontFrame s).toList else []

@[simp] theorem sbusSend_nil (s : State) : sbusSend [] s = s := by rw [sbusSend, List.append_nil]

theorem exec_stx (s : State) : exec .stx s = .next (sbusSend (stxSent s) s) := by
  rw [exec, execStx, stxSent]
  cases s.stxv with
  | true => simp
  | false => simp

/-- The notifications TTX sends (43_trainer_encoder.md R202): the committed bytes as one, or none. -/
def ttxSent (s : State) : List (List Byte) := if s.tfv then [frontBytes s] else []

theorem exec_ttx (s : State) : exec .ttx s = .next { s with bleTx := s.bleTx ++ ttxSent s } := by
  rw [exec, execTtx, ttxSent]
  cases hv : s.tfv with
  | true => rw [if_pos rfl, if_pos rfl, bleNotify, hv]
  | false => rw [if_neg nofun, if_neg nofun, List.append_nil, ← hv]

/-! ### R70 -/

/-- Settles O23: what a query or a transmit leaves unchanged is all that its repetition reads, `NEW` apart. -/
theorem queryAndTransmitSideEffects : Obligations.QueryAndTransmitSideEffects := by
  refine ⟨fun s F hv hF => ?spoll, fun s => ?stat, fun s => ?stx, fun s => ?ttx, fun s b => ?srx⟩
  case spoll =>
    exact ⟨_, _, exec_spoll_of_frame hv hF, exec_spoll_of_frame (F := F) hv hF, List.append_assoc ..⟩
  case stat => exact ⟨_, exec_stat s, rfl⟩
  case stx => exact ⟨_, _, stxSent s, exec_stx s, exec_stx _, rfl, rfl, rfl⟩
  case ttx => exact ⟨_, _, ttxSent s, exec_ttx s, exec_ttx _, rfl, rfl, rfl⟩
  case srx => exact ⟨_, exec_srx b s, notePrevious_prev b _, notePrevious_prevV b _⟩

/-! ### R63 -/

/-- Masking a word with `len` ones from bit `d + r` on and shifting it right by `r` leaves that field from bit `d` on. -/
theorem fieldMask_ushiftRight (c : Word) (d r len : Nat) :
    (c &&& ((BitVec.allOnes len).setWidth 16 <<< (d + r))) >>> r = (c.extractLsb' (d + r) len).setWidth 16 <<< d := by
  ext k hk
  by_cases hd : k < d
  · have hbelow : r + k < d + r := by omega
    simp [hd, hbelow]
  · have habove : ¬ r + k < d + r := by omega
    have hbit : d + r + (k - d) = r + k := by omega
    have hfield : r + k - (d + r) = k - d := by omega
    by_cases hin : r + k < 16
    · simp [hd, habove, hbit, hfield, hin, Bool.and_comm]
    · simp [hd, hbit, hin, BitVec.getLsbD_of_ge c (r + k) (by omega)]

/-- A byte put together from its two nibbles. -/
theorem setWidth_or_nibbles (hi lo : BitVec 4) :
    (hi.setWidth 16 <<< 4 ||| lo.setWidth 16).setWidth 8 = hi ++ lo := by
  ext k hk
  rw [BitVec.getElem_append]
  by_cases hlow : k < 4
  · simp [hlow]
  · simp [hlow, BitVec.getLsbD_of_ge lo k (by omega), BitVec.getLsbD_eq_getElem (x := hi) (i := k - 4) (by omega)]

/-- Settles O41: each masked and shifted part of `pack3` is one field of its word. -/
theorem trainerPairByteOrder : Obligations.TrainerPairByteOrder := by
  intro c0 c1
  have c0Low : c0 &&& 0x00FF#16 = (c0.extractLsb' 0 8).setWidth 16 := by simpa using fieldMask_ushiftRight c0 0 0 8
  have c0High : (c0 &&& 0x0F00#16) >>> 4 = (c0.extractLsb' 8 4).setWidth 16 <<< 4 := fieldMask_ushiftRight c0 4 4 4
  have c1Mid : (c1 &&& 0x00F0#16) >>> 4 = (c1.extractLsb' 4 4).setWidth 16 := by
    simpa using fieldMask_ushiftRight c1 0 4 4
  have c1Low : c1 &&& 0x000F#16 = (c1.extractLsb' 0 4).setWidth 16 := by simpa using fieldMask_ushiftRight c1 0 0 4
  have c1High : (c1 &&& 0x0F00#16) >>> 8 = (c1.extractLsb' 8 4).setWidth 16 := by
    simpa using fieldMask_ushiftRight c1 0 8 4
  rw [pack3, c0Low, c0High, c1Mid, c1Low, c1High, setWidth_or_nibbles, setWidth_or_nibbles,
    BitVec.setWidth_setWidth_of_le _ (by decide), BitVec.setWidth_eq]

end Sys2Proof.Machine
end

section
/-! PROOFS. The encoding (30_encoding.md): which opcodes are reserved (R105), how long a command is and what a cut stream
comes to (R106), and which operands are well-formed (R103). -/

namespace Sys2Proof

/-! ### The opcode byte (R104, R105) -/

theorem ofByte_eq_none_iff (b : Byte) : Opcode.ofByte b = none ↔ ∀ o ∈ opcodeMap, o.byte ≠ b := by
  simp [Opcode.ofByte]

/-- The reserved ranges of R105: what the fourteen assigned opcodes leave. -/
theorem ofByte_eq_none_iff_reserved (b : Byte) :
    Opcode.ofByte b = none ↔
      b.toNat = 0x00 ∨ (0x03 ≤ b.toNat ∧ b.toNat ≤ 0x0F) ∨ (0x12 ≤ b.toNat ∧ b.toNat ≤ 0x1F) ∨
      (0x23 ≤ b.toNat ∧ b.toNat ≤ 0x2F) ∨ (0x35 ≤ b.toNat ∧ b.toNat ≤ 0x3F) ∨
      (0x42 ≤ b.toNat ∧ b.toNat ≤ 0xFF) := by
  have hbyte : b.toNat < 256 := b.isLt
  simp only [ofByte_eq_none_iff, opcodeMap, List.forall_mem_cons, List.not_mem_nil, false_implies, implies_true,
    Opcode.byte, ne_eq, ← BitVec.toNat_inj, BitVec.reduceToNat, and_true]
  omega

/-- An opcode byte names one row. -/
theorem Opcode.byte_injective : Function.Injective Opcode.byte := fun o p h =>
  Option.some.inj (by rw [← ofByte_byte o, ← ofByte_byte p, h])

/-! ### What the encoder gives, and what the decoder reads from it -/

/-- A command's encoding is as long as its opcode's format says (R106). -/
theorem length_encode (i : Instr) : (encode i).length = i.opcode.format.length := by
  cases i with
  | rst => exact Laws.EncodeLength.rst
  | stat => exact Laws.EncodeLength.stat
  | srx b => exact Laws.EncodeLength.srx b
  | spoll => exact Laws.EncodeLength.spoll
  | senc w fl => exact Laws.EncodeLength.senc w fl
  | sencp w fl => exact Laws.EncodeLength.sencp w fl
  | stx => exact Laws.EncodeLength.stx
  | erst => exact Laws.EncodeLength.erst
  | eraw b => exact Laws.EncodeLength.eraw b
  | epush b => exact Laws.EncodeLength.epush b
  | echk => exact Laws.EncodeLength.echk
  | ecmt => exact Laws.EncodeLength.ecmt
  | tenc w => exact Laws.EncodeLength.tenc w
  | ttx => exact Laws.EncodeLength.ttx

theorem encode_eq_cons (i : Instr) : encode i = i.opcode.byte :: (encode i).tail := rfl

/-- The decoder at an assigned opcode: the length comes first, then the operands. -/
theorem decode_cons_byte (o : Opcode) (r : List Byte) :
    decode (o.byte :: r) =
      if (o.byte :: r).length < o.format.length then .error .truncated
      else if (o.assemble (o.byte :: r)).wellFormed then .ok (o.assemble (o.byte :: r))
      else .error .illFormed := by
  simp only [decode, ofByte_byte]

/-- All of a command's bytes decode to it if it is well-formed, whatever follows. -/
theorem decode_encode_append (i : Instr) (rest : List Byte) :
    decode (encode i ++ rest) = if i.wellFormed then .ok i else .error .illFormed := by
  have hcons : encode i ++ rest = i.opcode.byte :: ((encode i).tail ++ rest) := rfl
  have hlong : ¬ (encode i ++ rest).length < i.opcode.format.length := by
    rw [List.length_append, length_encode]; omega
  rw [hcons, decode_cons_byte, ← hcons, if_neg hlong, assemble_encode]

/-- Some of a command's bytes, its opcode at least, decode to nothing, whatever its operands are. -/
theorem decode_take_encode (i : Instr) {k : Nat} (hpos : 0 < k) (hcut : k < (encode i).length) :
    decode ((encode i).take k) = .error .truncated := by
  have hcons : (encode i).take k = i.opcode.byte :: (encode i).tail.take (k - 1) := by
    rw [encode_eq_cons, List.take_cons hpos, List.tail_cons]
  have hshort : ((encode i).take k).length < i.opcode.format.length := by
    rw [← length_encode, List.length_take]; omega
  rw [hcons, decode_cons_byte, ← hcons, if_pos hshort]

/-! ### Which operands are well-formed (R103) -/

theorem extractLsb'_eq_zero_of_le {x : Word} (h : x.toNat ≤ 2047) : x.extractLsb' 11 5 = 0 := by
  apply BitVec.eq_of_toNat_eq
  rw [BitVec.extractLsb'_toNat, Nat.shiftRight_eq_div_pow, Nat.div_eq_of_lt (by omega)]
  rfl

theorem flagByteInRange_iff (fl : Byte) : flagByteInRange fl = true ↔ fl.extractLsb' 4 4 = 0 := beq_iff_eq

theorem wellFormed_senc_iff (w : Channels) (fl : Byte) :
    (Instr.senc w fl).wellFormed = true ↔
      (∀ (k : Nat) (h : k < 16), w[k].toNat ≤ 2047) ∧ fl.extractLsb' 4 4 = 0 := by
  rw [Instr.wellFormed, Bool.and_eq_true, rawWordsInRange_iff, flagByteInRange_iff]

/-- Only the commands with a flag byte have operands to check beyond R101. -/
theorem format_eq_fs_of_not_wellFormed {i : Instr} (h : i.wellFormed = false) : i.opcode.format = .fs := by
  cases i with
  | senc w fl => rfl
  | sencp w fl => rfl
  | _ => cases h

end Sys2Proof

namespace Sys2Proof.Machine

/-! ### What a step does where the decoder reads no command (60_exceptions.md R233, R244) -/

/-- What the block answers where the decoder gives a reason: it waits on an empty stream, and refuses otherwise. -/
def answerTo (e : DecodeError) (s : State) : Host.Outcome State Fault Refusal :=
  match e with
  | .noCommand => .next (passTurn s)
  | .reservedOpcode => .refused (.reservedOpcode s.cmdPos)
  | .truncated => .refused (.truncated s.cmdPos)
  | .illFormed => .refused (.illFormed s.cmdPos)

theorem step_of_decode_error {s : State} {bs : List Byte} {e : DecodeError}
    (hturn : s.acceptOrder.headD .host = .host) (hin : s.cmdIn = bs) (hdecode : decode bs = .error e) :
    step s = answerTo e s := by
  have hturn : turn s = .host := hturn
  cases e <;> simp only [step, nextCommand, hturn, hin, hdecode, answerTo]

/-! ### R105, R106 and R103 -/

set_option maxRecDepth 10000 in
theorem length_reservedOpcodes :
    ((List.range 256).filter fun n => (Opcode.ofByte (BitVec.ofNat 8 n)).isNone).length = 242 := by decide

/-- Settles O4: an opcode is reserved where the opcode map has no row for it, and the step hands on the decoder's
refusal. -/
theorem reservedOpcodesAreRefused : Obligations.ReservedOpcodesAreRefused := by
  refine ⟨fun b rest => ?ranges, length_reservedOpcodes, fun s b rest hturn hin hdecode => ?step⟩
  case ranges => rw [decode_reserved, ofByte_eq_none_iff_reserved]
  case step => exact step_of_decode_error hturn hin hdecode

/-- Settles O5: the head of an encoding names the row and so the length, and a cut encoding is truncated before its
operands are looked at. -/
theorem streamEndingInsideACommandIsRefused : Obligations.StreamEndingInsideACommandIsRefused := by
  refine ⟨fun i => ?formats, fun i j hhead => ?opcodeAlone, fun s i k hturn hpos hcut hin => ?cut⟩
  case formats =>
    rw [length_encode]
    cases i.opcode.format <;> rfl
  case opcodeAlone =>
    have hopcode : i.opcode = j.opcode := Opcode.byte_injective (Option.some.inj hhead)
    rw [length_encode, length_encode, hopcode]
  case cut => exact step_of_decode_error hturn hin (decode_take_encode i hpos hcut)

/-- Settles O6: the conditions are R103's, and what the decoder refuses of them the meanings of SENC and SENCP refuse
too. -/
theorem illFormedCommandsAreRefused : Obligations.IllFormedCommandsAreRefused := by
  refine ⟨fun w fl => ?senc, fun w fl => flagByteInRange_iff fl, fun w => rfl, fun i hformat => ?short,
    fun i s rest hill => ?refused⟩
  case senc =>
    rw [wellFormed_senc_iff]
    exact and_congr_left' (forall₂_congr fun k hk => (and_iff_left_of_imp extractLsb'_eq_zero_of_le).symm)
  case short =>
    by_contra hill
    rw [format_eq_fs_of_not_wellFormed (Bool.eq_false_of_not_eq_true hill)] at hformat
    exact absurd hformat (by decide)
  case refused =>
    have hdecode : decode (encode i ++ rest) = .error .illFormed := by
      rw [decode_encode_append, hill]; rfl
    exact ⟨exec_illFormed i s hill, hdecode, fun hturn hin => step_of_decode_error hturn hin hdecode⟩

end Sys2Proof.Machine
end

section
/-! PROOFS. A whole SBUS frame through the parser (30_encoding.md R84): which byte starts it, what 24 of its bytes leave
in `PBUF`, and what the 25th decides. -/

namespace Sys2Proof.Machine

/-! ### The three moves of a received byte -/

theorem startsFrame_iff (b : Byte) (s : State) :
    startsFrame b s = true ↔
      s.pstate = .seeking ∧ s.prevV = true ∧ isFooter s.prev = true ∧ b = 0x0F := by
  simp only [startsFrame, isHeader, sbusHeader, Bool.and_eq_true, beq_iff_eq]
  tauto

theorem rxByte_start {b : Byte} {s : State} (h : startsFrame b s = true) :
    rxByte b s = { s with pbuf := s.pbuf.set 0 b, cnt := 1, pstate := .filling, prev := b, prevV := true } := by
  rw [rxByte, parseByte_seeking ((startsFrame_iff b s).1 h).1, if_pos h]
  rfl

theorem rxByte_discard {b : Byte} {s : State} (hp : s.pstate = .seeking) (h : startsFrame b s = false) :
    rxByte b s = { s with prev := b, prevV := true } := by
  rw [rxByte, parseByte_seeking hp, h]
  rfl

/-- What the last byte of `F` leaves: the frame delivered if that byte is a footer, and a framing error if not (R121). -/
def closeFrame (F : Frame) (s : State) : State :=
  if isFooter F[24] then
    { s with pbuf := F, cnt := 0, pstate := .seeking, prev := F[24], prevV := true
             lframe := some F, new := true, lvalid := true }
  else
    { s with pbuf := F, cnt := 0, pstate := .seeking, prev := F[24], prevV := true, errcnt := s.errcnt + 1 }

theorem rxByte_close (b : Byte) {s : State} (hp : s.pstate = .filling) (hc : s.cnt = 24) :
    rxByte b s = closeFrame (s.pbuf.set 24 b) s := by
  have hlast : (s.pbuf.set 24 b)[24] = b := Vector.getElem_set_self ..
  rw [rxByte, parseByte_filling hp, fillFrame, dif_neg (by rw [hc]; decide), closeFrame, hlast]
  cases isFooter b <;> rfl

theorem rxAll_concat (bs : List Byte) (b : Byte) (s : State) : rxAll (bs ++ [b]) s = rxByte b (rxAll bs s) :=
  List.foldl_concat ..

/-! ### The frame under construction -/

/-- `PBUF` after the first `n` bytes of `F`: those, and behind them what it held before. -/
def overwritten (F P : Frame) (n : Nat) : Frame := Vector.ofFn fun i : Fin 25 => if i.val < n then F[i] else P[i]

theorem overwritten_zero (F P : Frame) : overwritten F P 0 = P := by
  apply Vector.ext
  intro i hi
  simp [overwritten]

theorem overwritten_all (F P : Frame) : overwritten F P 25 = F := by
  apply Vector.ext
  intro i hi
  simp [overwritten]

theorem set_overwritten (F P : Frame) {n : Nat} (hn : n < 25) :
    (overwritten F P n).set n F[n] = overwritten F P (n + 1) := by
  apply Vector.ext
  intro i hi
  by_cases h : n = i
  · subst h; simp [overwritten]
  · have hlt : i < n + 1 ↔ i < n := by omega
    simp only [Vector.getElem_set_ne _ _ h, overwritten, Vector.getElem_ofFn, hlt]

theorem take_succ_toList (F : Frame) {n : Nat} (hn : n < 25) :
    F.toList.take (n + 1) = F.toList.take n ++ [F[n]] := by
  rw [List.take_add_one, List.getElem?_eq_getElem (by simpa using hn)]
  rfl

theorem toList_eq_take_concat (F : Frame) : F.toList = F.toList.take 24 ++ [F[24]] := by
  rw [← take_succ_toList F (by decide), List.take_of_length_le (by simp)]

/-- The first 24 bytes of a frame that starts all go into `PBUF`, whatever those behind the first are (R84, R121). -/
theorem rxAll_take_of_startsFrame {F : Frame} {s : State} (hstart : startsFrame F[0] s = true) {n : Nat} (hn : n < 24) :
    rxAll (F.toList.take (n + 1)) s =
      { s with pbuf := overwritten F s.pbuf (n + 1), cnt := BitVec.ofNat 5 (n + 1), pstate := .filling
               prev := F[n], prevV := true } := by
  induction n with
  | zero =>
    rw [take_succ_toList F (by decide), rxAll_concat, List.take_zero, ← set_overwritten F s.pbuf (by decide),
      overwritten_zero]
    exact rxByte_start hstart
  | succ n ih =>
    have hcnt : (BitVec.ofNat 5 (n + 1)).toNat = n + 1 := Nat.mod_eq_of_lt (by omega)
    have hsucc : BitVec.ofNat 5 (n + 1) + 1 = BitVec.ofNat 5 (n + 1 + 1) := (BitVec.ofNat_add ..).symm
    rw [take_succ_toList F (by omega), rxAll_concat, ih (by omega), rxByte_fill (by rw [hcnt]; exact hn) rfl]
    simp only [hcnt, hsucc, set_overwritten]

/-- A whole frame that starts is decided by its last byte alone (R84). -/
theorem rxAll_of_startsFrame {F : Frame} {s : State} (hstart : startsFrame F[0] s = true) :
    rxAll F.toList s = closeFrame F s := by
  rw [toList_eq_take_concat, rxAll_concat, rxAll_take_of_startsFrame hstart (n := 23) (by decide),
    rxByte_close _ rfl rfl, set_overwritten F s.pbuf (by decide), overwritten_all]
  rfl

/-- Settles O19: `startsFrame` reads the first byte with `PREV`, the close reads the 25th, and no move between them
looks at its byte. -/
theorem frameAcceptanceDependsOnHeaderAndFooterOnly : Obligations.FrameAcceptanceDependsOnHeaderAndFooterOnly := by
  intro s F hseeking
  have hstarts := startsFrame_iff F[0] s
  have hwhole (hv : s.prevV = true) (hprev : isFooter s.prev = true) (hheader : F[0] = 0x0F) :
      execAll (F.toList.map .srx) s = .next (closeFrame F s) := by
    rw [execAll_srx, rxAll_of_startsFrame (hstarts.2 ⟨hseeking, hv, hprev, hheader⟩)]
  refine ⟨fun hv hprev hheader hfooter => ?accepted, fun hv hprev hheader hfooter => ?error, fun hnot => ?notStarted⟩
  case accepted => rw [hwhole hv hprev hheader, closeFrame, if_pos hfooter, hseeking]
  case error => rw [hwhole hv hprev hheader, closeFrame, if_neg (by simp [hfooter]), hseeking]
  case notStarted =>
    have hstart : startsFrame F[0] s = false := Bool.eq_false_iff.2 fun h => hnot (hstarts.1 h).2
    rw [exec_srx, rxByte_discard hseeking hstart]

end Sys2Proof.Machine
end

section
/-! PROOFS. How long a trainer frame is (30_encoding.md R94), and that a line of 52 bytes holds every one. -/

namespace Sys2Proof.Machine

/-! ### Stuffing (R93) -/

theorem needsStuffing_iff (x : Byte) : needsStuffing x = true ↔ x = 0x7E ∨ x = 0x7D := by
  simp [needsStuffing, sentinel, stuffEscape]

/-- Two stuffed bytes are equal or differ in their two lowest bits. -/
theorem xor_of_needsStuffing {x y : Byte} (hx : needsStuffing x = true) (hy : needsStuffing y = true) :
    x ^^^ y = 0x00 ∨ x ^^^ y = 0x03 := by
  rw [needsStuffing_iff] at hx hy
  rcases hx with rfl | rfl <;> rcases hy with rfl | rfl <;> decide

/-- An even number of bytes that are all stuffed: their XOR, taken two by two. -/
theorem xorAll_of_all_needsStuffing :
    ∀ {l : List Byte}, Even l.length → l.all needsStuffing = true → xorAll l = 0x00 ∨ xorAll l = 0x03
  | [], _, _ => .inl rfl
  | [_], heven, _ => absurd heven (by simp)
  | x :: y :: l, heven, hall => by
    rw [List.all_cons, List.all_cons, Bool.and_eq_true, Bool.and_eq_true] at hall
    obtain ⟨hx, hy, hl⟩ := hall
    have hrest := xorAll_of_all_needsStuffing (l := l) (by simpa [Nat.even_add_one] using heven) hl
    rw [xorAll_cons, xorAll_cons, ← BitVec.xor_assoc]
    rcases xor_of_needsStuffing hx hy with hxy | hxy <;> rcases hrest with hl | hl <;> rw [hxy, hl] <;> decide

/-! ### The length of a frame -/

theorem length_packedPairs (w : Channels) : (packedPairs w).length = 24 := rfl

theorem length_framedUnit (sent : Byte) (payload : List Byte) :
    (framedUnit sent payload).length = payload.length + 3 + (payload ++ [xorAll payload]).countP needsStuffing := by
  simp only [framedUnit, List.length_append, length_flatMap_stuff, length_stuff, List.countP_append,
    List.countP_singleton, List.length_singleton]
  omega

theorem length_trainerFrame (w : Channels) : (trainerFrame w).length = 28 + stuffedCount w :=
  length_framedUnit sentinel (trainerPayload w)

/-- The frame type itself is not stuffed, so `s` counts packed bytes and the checksum. -/
theorem stuffedCount_eq (w : Channels) :
    stuffedCount w = (packedPairs w).countP needsStuffing + [xorAll (trainerPayload w)].countP needsStuffing := by
  rw [stuffedCount, List.countP_append, trainerPayload, List.countP_cons_of_neg (by decide)]

theorem xorAll_packedPairs_of_all (w : Channels) (hall : (packedPairs w).all needsStuffing = true) :
    xorAll (packedPairs w) = 0x00 ∨ xorAll (packedPairs w) = 0x03 :=
  xorAll_of_all_needsStuffing (length_packedPairs w ▸ by decide) hall

/-- Where all 24 packed bytes are stuffed, the checksum is 0x80 or 0x83 and is not. -/
theorem stuffedCount_of_all (w : Channels) (hall : (packedPairs w).all needsStuffing = true) : stuffedCount w = 24 := by
  have hpairs : (packedPairs w).countP needsStuffing = 24 :=
    List.countP_eq_length.2 (List.all_eq_true.1 hall)
  have hchecksum : needsStuffing (xorAll (trainerPayload w)) = false := by
    rw [trainerPayload, xorAll_cons]
    rcases xorAll_packedPairs_of_all w hall with h | h <;> rw [h] <;> decide
  rw [stuffedCount_eq, hpairs, List.countP_singleton, hchecksum]
  rfl

theorem stuffedCount_le (w : Channels) : stuffedCount w ≤ 24 := by
  by_cases hall : (packedPairs w).all needsStuffing = true
  · exact (stuffedCount_of_all w hall).le
  · have hle : (packedPairs w).countP needsStuffing ≤ 24 := List.countP_le_length
    have hne : (packedPairs w).countP needsStuffing ≠ 24 := fun h =>
      hall (List.all_eq_true.2 (List.countP_eq_length.1 h))
    have hchecksum : [xorAll (trainerPayload w)].countP needsStuffing ≤ 1 := List.countP_le_length
    rw [stuffedCount_eq]
    omega

theorem length_trainerFrame_le (w : Channels) : (trainerFrame w).length ≤ 52 := by
  rw [length_trainerFrame]
  have := stuffedCount_le w
  omega

/-- Channels that reach the bound: each pair packs to 0x7E, 0x7E, 0x7E. -/
def allStuffed : Channels := Vector.ofFn fun i : Fin 16 => if i.val % 2 = 0 then 0x77E else 0xEE7

theorem all_needsStuffing_allStuffed : (packedPairs allStuffed).all needsStuffing = true := by decide

/-! ### A line that holds the frame -/

/-- A trainer frame that fits leaves the unit without overflow. -/
theorem buildTrainerFrame_tovf_of_le {w : Channels} {s : State} (hvalid : s.cfg.Valid)
    (hsize : s.tbuf.length = s.cfg.lineMax) (hfit : (trainerFrame w).length ≤ s.cfg.lineMax) :
    (buildTrainerFrame w s).tovf = false := by
  obtain ⟨_, _, _, _, _, _, hlineMax⟩ := hvalid
  rw [buildTrainer_eq, emitAll_fit (trainerFrame w) (startUnit s) hlineMax hsize rfl ((Nat.zero_add _).trans_le hfit)]
  rfl

theorem commit_tovf (s : State) : (commit s).tovf = s.tovf := by
  rw [(commit_frame s).1]
  rfl

/-- Settles O44: `s` is 24 where every packed byte is stuffed, and at most 23 and the checksum otherwise. -/
theorem trainerFrameLengthBounds : Obligations.TrainerFrameLengthBounds := by
  refine ⟨fun w => ⟨length_trainerFrame w, stuffedCount_le w, ?atLeast, length_trainerFrame_le w⟩,
    stuff_plain 0x80 (by decide) (by decide), xorAll_packedPairs_of_all, ⟨allStuffed, ?reached⟩,
    fun w s hvalid hsize hroom => ?fits⟩
  case atLeast =>
    rw [length_trainerFrame]
    exact Nat.le_add_right 28 _
  case reached => rw [length_trainerFrame, stuffedCount_of_all _ all_needsStuffing_allStuffed]
  case fits =>
    have hfit := (length_trainerFrame_le w).trans hroom
    exact ⟨_, exec_tenc w s, (commit_tovf _).trans (buildTrainerFrame_tovf_of_le hvalid hsize hfit)⟩

end Sys2Proof.Machine
end

section
/-! PROOFS. The SBUS decoder (40_sbus_decoder.md): a batch of received bytes (R128), SRX branch by branch (R121) and the
25 bytes of a started frame (R123), the PWM mapping (R126), and SPOLL's response (R127). -/

namespace Sys2Proof.Machine

/-! ### A batch on SBUS_RX (R128) -/

/-- `s` with `rx` pending on SBUS_RX and `order` as the coming interleaving. -/
def withPending (rx : List Byte) (order : List Agent) (s : State) : State :=
  { s with sbusRx := rx, acceptOrder := order }

/-- SRX neither reads nor writes what is pending. -/
theorem rxByte_withPending (b : Byte) (rx : List Byte) (order : List Agent) (s : State) :
    rxByte b (withPending rx order s) = withPending rx order (rxByte b s) :=
  calc rxByte b (withPending rx order s)
    _ = withParserOf (rxByte b s) (withPending rx order s) := rxByte_withParserOf b s (withPending rx order s)
    _ = withPending rx order (withParserOf (rxByte b s) s) := rfl
    _ = withPending rx order (rxByte b s) := by rw [← rxByte_eq]

/-- A step on the byte source's turn is SRX of the oldest pending byte (R100). -/
theorem step_withPending (b : Byte) (later : List Byte) (order : List Agent) (s : State) :
    step (withPending (b :: later) (.sbusSource :: order) s) = .next (withPending later order (rxByte b s)) := by
  have hstep : step (withPending (b :: later) (.sbusSource :: order) s) =
      .next (passCommand .sbusSource (.srx b) (rxByte b (withPending (b :: later) (.sbusSource :: order) s))) := rfl
  rw [hstep, rxByte_withPending]
  rfl

theorem run_succ_of_next {s t : State} (k : Nat) (h : step s = .next t) :
    Host.Core.run core (k + 1) s = Host.Core.run core k t := by
  have hcore : core.step s = .next t := h
  simp only [Host.Core.run, hcore]

theorem run_withPending (batch later : List Byte) (order : List Agent) (s : State) :
    Host.Core.run core batch.length
        (withPending (batch ++ later) (List.replicate batch.length .sbusSource ++ order) s) =
      .next (withPending later order (rxAll batch s)) := by
  induction batch generalizing s with
  | nil => rfl
  | cons b batch ih =>
    exact (run_succ_of_next _ (step_withPending b ..)).trans (ih (rxByte b s))

/-- Settles O11: each step takes one byte off the batch and runs its SRX, which does not see the rest. -/
theorem batchOfBytesIsOneSrxPerByte : Obligations.BatchOfBytesIsOneSrxPerByte := by
  intro s batch later order horder hrx
  have hs : s = withPending (batch ++ later) (List.replicate batch.length .sbusSource ++ order) s := by
    rw [← hrx, ← horder]; rfl
  exact ⟨rxAll batch s, execAll_srx batch s, (congrArg _ hs).trans (run_withPending batch later order s)⟩

/-! ### A started frame (R121, R123) -/

/-- The 25th byte returns to `Seeking`, footer or not. -/
theorem rxByte_close_seeking (b : Byte) {s : State} (hp : s.pstate = .filling) (hc : s.cnt = 24) :
    (rxByte b s).pstate = .seeking ∧ (rxByte b s).cnt = 0 := by
  rw [rxByte_close b hp hc, closeFrame]
  split <;> exact ⟨rfl, rfl⟩

/-- The bytes up to the 24th change `PBUF`, `CNT`, `PREV` and `PREV_V` only, whatever they are. -/
theorem rxAll_of_filling {s : State} {bytes : List Byte} (hp : s.pstate = .filling)
    (hlen : s.cnt.toNat + bytes.length = 24) :
    ∃ P p v, rxAll bytes s = { s with pbuf := P, cnt := 24, prev := p, prevV := v } := by
  induction bytes generalizing s with
  | nil =>
    have hcnt : s.cnt = 24 := BitVec.eq_of_toNat_eq hlen
    exact ⟨s.pbuf, s.prev, s.prevV, by rw [← hcnt]; rfl⟩
  | cons b bytes ih =>
    rw [List.length_cons] at hlen
    have hroom : s.cnt.toNat < 24 := by omega
    have hnext := rxByte_fill (b := b) hroom hp
    have hlater : (rxByte b s).cnt.toNat + bytes.length = 24 := by
      rw [hnext, cnt_succ hroom]; omega
    obtain ⟨P, p, v, hrest⟩ := ih (s := rxByte b s) (by rw [hnext]; exact hp) hlater
    exact ⟨P, p, v, hrest.trans (by rw [hnext])⟩

/-- Settles O18: `fillFrame` looks at a byte's value only when `CNT` is 24, and then it closes the frame either way. -/
theorem startedFrameRunsToTwentyFiveBytes : Obligations.StartedFrameRunsToTwentyFiveBytes := by
  intro s bytes hp hlen
  obtain ⟨P, p, v, hfilled⟩ := rxAll_of_filling hp hlen
  exact ⟨_, (execAll_srx bytes s).trans (congrArg _ hfilled), hp, rfl, rfl, rfl, rfl, rfl,
    fun b => ⟨_, exec_srx b _, rxByte_close_seeking b hp rfl⟩⟩

/-- Settles O17: each branch of R121 is one move of a received byte. -/
theorem srxFollowsTheParserRule : Obligations.SrxFollowsTheParserRule := by
  refine ⟨fun b rest => decode_encode_append (.srx b) rest, fun b s => ?_⟩
  simp only [exec_srx, ← isFooter_iff]
  have hstarts := startsFrame_iff b s
  have hclose (hp : s.pstate = .filling) (hc : s.cnt.toNat = 24) : rxByte b s = closeFrame (s.pbuf.set 24 b) s :=
    rxByte_close b hp (BitVec.eq_of_toNat_eq hc)
  have hlast : (s.pbuf.set 24 b)[24] = b := Vector.getElem_set_self ..
  refine ⟨fun hp hb hv hprev => ?start, fun hp hnot => ?discard, fun hroom hp => ?fill, fun hp hc hfooter => ?deliver,
    fun hp hc hfooter => ?error⟩
  case start => rw [rxByte_start (hstarts.2 ⟨hp, hv, hprev, hb⟩)]
  case discard =>
    have hstart : startsFrame b s = false := Bool.eq_false_iff.2 fun h => by
      obtain ⟨_, hv, hprev, hb⟩ := hstarts.1 h
      exact hnot ⟨hb, hv, hprev⟩
    rw [rxByte_discard hp hstart]
  case fill => rw [rxByte_fill hroom hp]
  case deliver => rw [hclose hp hc, closeFrame, hlast, if_pos hfooter]
  case error => rw [hclose hp hc, closeFrame, hlast, if_neg hfooter]

/-! ### The PWM mapping (R126) -/

theorem toPwmValue_bounds {c : Config} (raw : Raw) (hc : c.Valid) :
    (c.minPwm : Int) ≤ toPwmValue c raw ∧ toPwmValue c raw ≤ c.maxPwm := by
  obtain ⟨_, _, _, hle, _⟩ := hc
  exact clamp_bounds _ _ _ (Int.ofNat_le.2 hle)

/-- The bounds of R8 let the 16-bit result hold the exact value. -/
theorem toNat_toPwm {c : Config} (raw : Raw) (hc : c.Valid) : ((toPwm c raw).toNat : Int) = toPwmValue c raw := by
  obtain ⟨hmin, hmax⟩ := toPwmValue_bounds raw hc
  obtain ⟨_, _, _, _, hword, _⟩ := hc
  exact ofInt_toNat 16 _ (by omega) (by omega)

/-- Settles O27: `q` is the `floor_div` of R126. -/
theorem pwmMappingRoundsDownAndClamps : Obligations.PwmMappingRoundsDownAndClamps := by
  refine ⟨fun c raw hc => ?exact, fun c raw hc => ?bounds, by decide⟩
  case exact =>
    have hnum : (0 : Int) < c.scaleNum := Int.ofNat_lt.2 hc.1
    obtain ⟨hfloor, hceil⟩ := floorDiv_spec (((raw.toNat : Int) - 992) * c.scaleDen) c.scaleNum hnum
    exact ⟨_, hfloor, hceil, toNat_toPwm raw hc⟩
  case bounds =>
    obtain ⟨hmin, hmax⟩ := toPwmValue_bounds raw hc
    rw [← toNat_toPwm raw hc] at hmin hmax
    exact ⟨Int.ofNat_le.1 hmin, Int.ofNat_le.1 hmax⟩

/-! ### SPOLL's response (R127, R107) -/

/-- SPOLL while no frame has ever completed. -/
theorem exec_spoll_of_no_frame {s : State} (hv : s.lvalid = false) :
    exec .spoll s = .next { respond [0x00] s with new := false } := by
  have hresponse : pollResponse s = [0x00] := by rw [pollResponse, hv]; rfl
  rw [exec, execSpoll, hresponse]

theorem pollStatus_eq (new : Bool) : pollStatus new = if new then 0x03#8 else 0x02#8 := by
  cases new <;> rfl

/-- A vector's elements in order are its positions read in order. -/
theorem flatMap_toList_eq_range {α β : Type} {n : Nat} (f : α → List β) (v : Vector α n) (d : α) :
    v.toList.flatMap f = (List.range n).flatMap fun i => f (v.toList.getD i d) := by
  have hread : v.toList = (List.range n).map fun i => v.toList.getD i d := by
    apply List.ext_getElem
    · simp
    · intro i hi _
      have hn : i < n := by simpa using hi
      simp [hn]
  conv_lhs => rw [hread]
  rw [List.flatMap_map]

theorem toList_pwmChannels (c : Config) (raw : RawChannels) : (pwmChannels c raw).toList = raw.toList.map (toPwm c) := by
  apply List.ext_getElem <;> simp [pwmChannels]

theorem sbusFlags_setWidth (F : Frame) : (sbusFlags F).setWidth 8 = F[23] &&& 0x0F := by
  have hmask : ∀ (i : Nat) (hi : i < 8), (0x0F : Byte)[i] = decide (i < 4) := by decide
  ext i hi
  rw [BitVec.getElem_and, hmask]
  by_cases hlow : i < 4
  · simp [sbusFlags, hlow, BitVec.getLsbD_eq_getElem hi]
  · simp [sbusFlags, hlow]

theorem pollReport_eq (c : Config) (new : Bool) (F : Frame) :
    pollReport c new F =
      [if new then 0x03#8 else 0x02#8] ++ F.toList ++
        (List.range 16).flatMap (fun i => le16 (((sbusUnpack F).toList.getD i 0).setWidth 16)) ++
        (List.range 16).flatMap (fun i => le16 (toPwm c ((sbusUnpack F).toList.getD i 0))) ++
        [F[23] &&& 0x0F] := by
  have hread (f : Raw → List Byte) := flatMap_toList_eq_range f (sbusUnpack F) 0
  rw [pollReport, pollStatus_eq, sbusFlags_setWidth, toList_pwmChannels, List.flatMap_map, hread, hread]

theorem length_pollReport (c : Config) (new : Bool) (F : Frame) : (pollReport c new F).length = 91 := by
  have hraw : ((sbusUnpack F).toList.flatMap fun r => le16 (r.setWidth 16)).length = 32 := by
    rw [← List.flatMap_map, length_flatMap_le16, List.length_map, Vector.length_toList]
  simp only [pollReport, List.length_append, List.length_singleton, hraw, length_flatMap_le16, Vector.length_toList]

/-- Settles O21: the response is `pollReport` read position by position. -/
theorem spollReportsTheLatestFrame : Obligations.SpollReportsTheLatestFrame := by
  refine ⟨decode_encode_append .spoll, fun s hv => ?noFrame, fun s F hv hF => ?frame, length_pollReport⟩
  case noFrame => rw [exec_spoll_of_no_frame hv, respond]
  case frame => rw [exec_spoll_of_frame hv hF, pollReport_eq, respond]

end Sys2Proof.Machine
end

section
/-! PROOFS. The SBUS encoder (41_sbus_encoder.md): packing and unpacking are inverse (R164), the scaling of SENCP (R162), what
SENC, SENCP and STX do (R161, R163, R165), and the round trip through the decoder (R166). -/

namespace Sys2Proof.Machine

/-! ### Packing and unpacking (R164) -/

/-- Bit `m` of payload byte `k` is a bit of the channel stream (20_memory.md R62). -/
theorem getLsbD_payload (F : Frame) {k m : Nat} (hpos : 1 ≤ k) (hk : k ≤ 22) (hm : m < 8) :
    F[k].getLsbD m = streamBit F (8 * (k - 1) + m) := by
  have hbyte : 1 + (8 * (k - 1) + m) / 8 = k := by omega
  have hbit : (8 * (k - 1) + m) % 8 = m := by omega
  rw [streamBit, dif_pos (by omega)]
  simp only [hbyte, hbit]

/-- Bit `j` of channel `i` is bit `11*i + j` of the stream it is packed into. -/
theorem packBit_channel (raw : RawChannels) {i j : Nat} (hi : i < 16) (hj : j < 11) :
    packBit raw (11 * i + j) = raw[i].getLsbD j := by
  have hchannel : (11 * i + j) / 11 = i := by omega
  have hbit : (11 * i + j) % 11 = j := by omega
  rw [packBit, dif_pos (by omega)]
  simp only [hchannel, hbit]

theorem sbusUnpack_sbusPack (raw : RawChannels) (fl : BitVec 4) : sbusUnpack (sbusPack raw fl) = raw := by
  apply Vector.ext
  intro i hi
  apply BitVec.eq_of_getLsbD_eq
  intro j hj
  rw [unpack_bit _ i j hi hj, streamBit_pack, packBit_channel raw hi hj]

theorem sbusFlags_sbusPack (raw : RawChannels) (fl : BitVec 4) : sbusFlags (sbusPack raw fl) = fl := by
  obtain ⟨_, hflags, _⟩ := pack_ends raw fl
  rw [sbusFlags, hflags]
  ext i hi
  simp [hi, show i < 8 by omega]

/-- A frame with the three constant fields of a built frame is the packing of what it unpacks to. -/
theorem sbusPack_sbusUnpack {F : Frame} (hheader : F[0] = 0x0F) (hhigh : F[23].extractLsb' 4 4 = 0)
    (hfooter : F[24] = 0x00) : sbusPack (sbusUnpack F) (sbusFlags F) = F := by
  obtain ⟨hhead, hflags, hfoot⟩ := pack_ends (sbusUnpack F) (sbusFlags F)
  apply Vector.ext
  intro k hk
  have hcases : k = 0 ∨ (1 ≤ k ∧ k ≤ 22) ∨ k = 23 ∨ k = 24 := by omega
  obtain rfl | ⟨hpos, hle⟩ | rfl | rfl := hcases
  · rw [hhead, hheader]
  · apply BitVec.eq_of_getLsbD_eq
    intro m hm
    rw [getLsbD_payload _ hpos hle hm, getLsbD_payload F hpos hle hm, streamBit_pack, packBit_unpack]
  · rw [hflags]
    exact flag_setWidth F[23] ((flagByteInRange_iff F[23]).2 hhigh)
  · rw [hfoot, hfooter]

/-- Settles O26: bit by bit, both directions read the one channel stream. -/
theorem packingAndUnpackingAreInverse : Obligations.PackingAndUnpackingAreInverse :=
  ⟨fun raw fl => ⟨sbusUnpack_sbusPack raw fl, sbusFlags_sbusPack raw fl⟩, fun _ => sbusPack_sbusUnpack⟩

/-! ### The raw mapping (R162) -/

/-- The clamp lets 11 bits hold the exact value, in every configuration. -/
theorem toNat_toRaw (c : Config) (p : Word) : ((toRaw c p).toNat : Int) = toRawValue c p := by
  obtain ⟨hmin, hmax⟩ := clamp_bounds 0 2047
    (sbusCenter + floorDiv ((p.toNat - c.ppmCenter) * c.scaleNum) c.scaleDen) (by decide)
  exact ofInt_toNat 11 (toRawValue c p) hmin (Int.lt_add_one_of_le hmax)

/-- Settles O28: `q` is the `floor_div` of R162. -/
theorem rawMappingRoundsDownAndClamps : Obligations.RawMappingRoundsDownAndClamps := by
  refine ⟨fun c p hc => ?exact, by decide⟩
  case exact =>
    obtain ⟨_, hden, _⟩ := hc
    obtain ⟨hfloor, hceil⟩ :=
      floorDiv_spec (((p.toNat : Int) - c.ppmCenter) * c.scaleNum) c.scaleDen (Int.ofNat_lt.2 hden)
    exact ⟨_, hfloor, hceil, toNat_toRaw c p⟩

/-! ### SENC and SENCP (R161, R163) -/

theorem rawOperands_eq_map (w : Channels) : rawOperands w = w.map fun x => x.setWidth 11 := by
  apply Vector.ext
  intro i hi
  simp [rawOperands]

theorem pwmOperands_eq_map (c : Config) (w : Channels) : pwmOperands c w = w.map (toRaw c) := by
  apply Vector.ext
  intro i hi
  simp [pwmOperands]

/-- The fields of a frame packed with an admitted flag byte (30_encoding.md R80, R83). -/
theorem sbusPack_flagOperand_ends (raw : RawChannels) {fl : Byte} (hfl : flagByteInRange fl = true) :
    (sbusPack raw (flagOperand fl))[0] = 0x0F ∧ (sbusPack raw (flagOperand fl))[23] = fl ∧
      (sbusPack raw (flagOperand fl))[24] = 0x00 := by
  obtain ⟨hheader, hflags, hfooter⟩ := pack_ends raw (flagOperand fl)
  exact ⟨hheader, hflags.trans (flag_setWidth fl hfl), hfooter⟩

/-- Widening an in-range word's 11 bits gives the word back. -/
theorem setWidth_setWidth_of_inRange {x : Word} (hx : x.toNat ≤ 2047) : (x.setWidth 11).setWidth 16 = x := by
  apply BitVec.eq_of_toNat_eq
  rw [BitVec.toNat_setWidth, BitVec.toNat_setWidth]
  omega

/-- The bytes of an admitted command with a flag byte (R101, format FS) decode to it, whatever follows. -/
theorem decode_flagged {i : Instr} {w : Channels} {fl : Byte} (hbytes : encode i = i.opcode.byte :: (channelBytes w ++ [fl]))
    (hwf : i.wellFormed = true) (rest : List Byte) :
    decode (i.opcode.byte :: (w.toList.flatMap le16 ++ fl :: rest)) = .ok i := by
  have hstream : encode i ++ rest = i.opcode.byte :: (channelBytes w ++ fl :: rest) := by
    rw [hbytes, List.cons_append, List.append_assoc, List.singleton_append]
  rw [← channelBytes, ← hstream, decode_encode_append, if_pos hwf]

/-- Settles O30: the frame is the packing of the operands, and unpacking it gives them back. -/
theorem sencBuildsTheFrontFrame : Obligations.SencBuildsTheFrontFrame := by
  refine ⟨fun w fl rest hwf => ?decodes, fun w fl s hwf => ?builds, fun w fl s hout => ?refused⟩
  case decodes => exact decode_flagged (i := .senc w fl) rfl hwf rest
  case builds =>
    obtain ⟨hwords, hhigh⟩ := (wellFormed_senc_iff w fl).1 hwf
    obtain ⟨hheader, hflags, hfooter⟩ := sbusPack_flagOperand_ends (rawOperands w) ((flagByteInRange_iff fl).2 hhigh)
    refine ⟨rawOperands_eq_map w ▸ exec_senc hwf, _, exec_senc hwf, hheader, hflags, hfooter, fun k hk => ?_⟩
    rw [sbusUnpack_sbusPack, rawOperands_eq_map, Vector.getElem_map, setWidth_setWidth_of_inRange (hwords k hk)]
  case refused =>
    apply exec_illFormed
    rw [← Bool.not_eq_true, wellFormed_senc_iff]
    rintro ⟨hwords, hhigh⟩
    obtain ⟨k, hk, hlarge⟩ | hflag := hout
    · exact absurd (hwords k hk) (Nat.not_le.2 hlarge)
    · exact hflag hhigh

/-- `to_raw` takes the PWM centre to the SBUS centre (R163, corner case). -/
theorem toRaw_ppmCenter {c : Config} (hc : c.ppmCenter ≤ 65535) : toRaw c (BitVec.ofNat 16 c.ppmCenter) = 992 := by
  have hcenter : (BitVec.ofNat 16 c.ppmCenter).toNat = c.ppmCenter := Nat.mod_eq_of_lt (by omega)
  rw [toRaw, toRawValue, hcenter, Int.sub_self, Int.zero_mul, floorDiv, Int.zero_fdiv]
  rfl

/-- Settles O31: SENCP is SENC of the scaled operands, and the centre scales to 992. -/
theorem sencpBuildsTheScaledFrontFrame : Obligations.SencpBuildsTheScaledFrontFrame := by
  refine ⟨fun w fl rest hwf => ?decodes, fun w fl s hflag => ?refused, fun w fl s hwf => ?builds,
    fun s fl hc hwf => ?center⟩
  case decodes => exact decode_flagged (i := .sencp w fl) rfl hwf rest
  case refused => exact exec_illFormed _ s (Bool.eq_false_iff.2 fun hwf => hflag ((flagByteInRange_iff fl).1 hwf))
  case builds =>
    obtain ⟨hheader, hflags, hfooter⟩ := sbusPack_flagOperand_ends (pwmOperands s.cfg w) hwf
    refine ⟨pwmOperands_eq_map s.cfg w ▸ exec_sencp hwf, _, exec_sencp hwf, hheader, hflags, hfooter, fun k hk => ?_⟩
    rw [sbusUnpack_sbusPack, pwmOperands_eq_map, Vector.getElem_map]
  case center =>
    obtain ⟨_, _, hcenter, _⟩ := hc
    have hsenc : (Instr.senc (Vector.replicate 16 992) fl).wellFormed = true :=
      (wellFormed_senc_iff _ fl).2 ⟨fun k hk => by simp, (flagByteInRange_iff fl).1 hwf⟩
    have hraw : pwmOperands s.cfg (Vector.replicate 16 (BitVec.ofNat 16 s.cfg.ppmCenter)) =
        rawOperands (Vector.replicate 16 992) := by
      rw [pwmOperands_eq_map, rawOperands_eq_map, Vector.map_replicate, Vector.map_replicate, toRaw_ppmCenter hcenter]
      rfl
    exact ⟨_, exec_sencp hwf, hraw ▸ exec_senc hsenc⟩

/-! ### STX (R165) -/

theorem exec_stx_of_frame {s : State} {F : Frame} (hv : s.stxv = true) (hF : s.stxb = some F) :
    exec .stx s = .next (sbusSend F.toList s) := by
  rw [exec_stx, stxSent, if_pos hv, frontFrame, hF, Option.getD_some]

theorem exec_stx_of_no_frame {s : State} (hv : s.stxv = false) : exec .stx s = .next s := by
  rw [exec_stx, stxSent, hv, if_neg nofun, sbusSend_nil]

/-- Settles O32: STX sends `stxSent`, which `STXV` alone decides. -/
theorem stxSendsTheFrontFrame : Obligations.StxSendsTheFrontFrame :=
  ⟨decode_encode_append .stx, fun _ _ => exec_stx_of_frame, fun _ => exec_stx_of_no_frame⟩

/-! ### The round trip (R166) -/

/-- Steps 1 and 2 of R166's proof sketch: scaling up and back, rounding down each time. -/
theorem floorDiv_floorDiv_bounds (d : Int) {num den : Int} (hnum : 0 < num) (hden : 0 < den) :
    floorDiv (floorDiv (d * num) den * den) num ≤ d ∧
      d - floorDiv (floorDiv (d * num) den * den) num ≤ (den + num - 1) / num := by
  obtain ⟨hup, hupNext⟩ := floorDiv_spec (d * num) den hden
  obtain ⟨hback, hbackNext⟩ := floorDiv_spec (floorDiv (d * num) den * den) num hnum
  generalize floorDiv (d * num) den = r at *
  generalize floorDiv (r * den) num = d' at *
  constructor
  · exact Int.le_of_mul_le_mul_right (hback.trans hup) hnum
  · apply Int.le_ediv_of_mul_le hnum
    linarith

theorem clamp_of_mem {lo hi v : Int} (hlo : lo ≤ v) (hhi : v ≤ hi) : clamp lo hi v = v := by
  rw [clamp, if_neg (by omega), if_neg (by omega)]

/-- Step 3: clamping a value below `p` to a range that holds `p` moves it toward `p` only. -/
theorem clamp_between {lo hi v p : Int} (hv : v ≤ p) (hlo : lo ≤ p) (hhi : p ≤ hi) :
    v ≤ clamp lo hi v ∧ clamp lo hi v ≤ p := by
  unfold clamp
  split
  · omega
  · split <;> omega

/-- One channel of R166: `to_pwm` of `to_raw`, where neither end of the raw range is passed. -/
theorem toPwm_toRaw_bounds {c : Config} {p : Word} (hc : c.Valid) (hmin : c.minPwm ≤ p.toNat) (hmax : p.toNat ≤ c.maxPwm)
    (hlow : 0 ≤ sbusCenter + floorDiv (((p.toNat : Int) - c.ppmCenter) * c.scaleNum) c.scaleDen)
    (hhigh : sbusCenter + floorDiv (((p.toNat : Int) - c.ppmCenter) * c.scaleNum) c.scaleDen ≤ 2047) :
    (toPwm c (toRaw c p)).toNat ≤ p.toNat ∧
      p.toNat - (toPwm c (toRaw c p)).toNat ≤ (c.scaleDen + c.scaleNum - 1) / c.scaleNum := by
  obtain ⟨hbelow, hwithin⟩ := floorDiv_floorDiv_bounds ((p.toNat : Int) - c.ppmCenter)
    (Int.ofNat_lt.2 hc.1) (Int.ofNat_lt.2 hc.2.1)
  have hraw := (toNat_toRaw c p).trans (clamp_of_mem hlow hhigh)
  have hpwm := toNat_toPwm (toRaw c p) hc
  rw [toPwmValue, hraw, add_sub_cancel_left] at hpwm
  generalize floorDiv (floorDiv (((p.toNat : Int) - c.ppmCenter) * c.scaleNum) c.scaleDen * c.scaleDen) c.scaleNum = d'
    at hbelow hwithin hpwm
  obtain ⟨hclampLow, hclampHigh⟩ := clamp_between (v := c.ppmCenter + d') (p := p.toNat) (by omega)
    (Int.ofNat_le.2 hmin) (Int.ofNat_le.2 hmax)
  rw [← hpwm] at hclampLow hclampHigh
  have hceil : ((c.scaleDen : Int) + c.scaleNum - 1) / c.scaleNum =
      (((c.scaleDen + c.scaleNum - 1) / c.scaleNum : Nat) : Int) := by
    rw [Int.natCast_ediv, Nat.cast_sub (by omega), Nat.cast_add, Nat.cast_one]
  rw [hceil] at hwithin
  exact ⟨by omega, by omega⟩

theorem execAll_cons_of_next {i : Instr} {is : List Instr} {s t : State} (h : exec i s = .next t) :
    execAll (i :: is) s = execAll is t := by
  rw [execAll_cons, h]

/-- The frame that SENCP builds (R163). -/
def sencpFrame (c : Config) (w : Channels) (fl : Byte) : Frame := sbusPack (pwmOperands c w) (flagOperand fl)

theorem sbusUnpack_sencpFrame (c : Config) (w : Channels) (fl : Byte) :
    sbusUnpack (sencpFrame c w fl) = pwmOperands c w := sbusUnpack_sbusPack _ _

/-- What SENCP and then STX leave: the built frame in the front buffer, and its bytes on SBUS_TX. -/
theorem execAll_sencp_stx {w : Channels} {fl : Byte} {s : State} (hwf : (Instr.sencp w fl).wellFormed = true) :
    execAll [.sencp w fl, .stx] s =
      .next (sbusSend (sencpFrame s.cfg w fl).toList (storeFrontFrame (sencpFrame s.cfg w fl) s)) := by
  rw [execAll_cons_of_next (exec_sencp hwf), execAll_cons_of_next (exec_stx_of_frame rfl rfl)]
  rfl

/-- What the bytes of a frame and then SPOLL answer, where the frame starts and closes on a footer (R84, R127). -/
theorem execAll_srx_spoll {F : Frame} {s : State} (hstart : startsFrame F[0] s = true) (hfooter : isFooter F[24] = true) :
    ∃ u, execAll (F.toList.map .srx ++ [.spoll]) s = .next u ∧ u.rsp = s.rsp ++ [pollReport s.cfg true F] := by
  have hreceived : execAll (F.toList.map .srx) s = .next (closeFrame F s) := by
    rw [execAll_srx, rxAll_of_startsFrame hstart]
  rw [execAll_append hreceived, closeFrame, if_pos hfooter, execAll_cons_of_next (exec_spoll_of_frame rfl rfl)]
  exact ⟨_, rfl, rfl⟩

/-- Settles O29: the frame that SENCP builds and STX sends is delivered whole, and each channel of it is bounded. -/
theorem pwmRoundTripErrorIsBounded : Obligations.PwmRoundTripErrorIsBounded := by
  intro s w fl hc hwf hseeking hprevV hprev hrange
  obtain ⟨hheader, _, hfoot⟩ := pack_ends (pwmOperands s.cfg w) (flagOperand fl)
  have hstart : startsFrame (sencpFrame s.cfg w fl)[0] (sbusSend (sencpFrame s.cfg w fl).toList
      (storeFrontFrame (sencpFrame s.cfg w fl) s)) = true :=
    (startsFrame_iff _ _).2 ⟨hseeking, hprevV, hprev, hheader⟩
  have hfooter : isFooter (sencpFrame s.cfg w fl)[24] = true := (isFooter_iff _).2 (.inl hfoot)
  obtain ⟨u, hpolled, hrsp⟩ := execAll_srx_spoll hstart hfooter
  refine ⟨_, _, u, execAll_sencp_stx hwf, rfl, hpolled, hrsp, fun k hk => ?bounded⟩
  case bounded =>
    obtain ⟨hmin, hmax, hlow, hhigh⟩ := hrange k hk
    have hout : (pwmChannels s.cfg (pwmOperands s.cfg w))[k] = toPwm s.cfg (toRaw s.cfg w[k]) := by
      simp [pwmChannels, pwmOperands]
    rw [sbusUnpack_sencpFrame, hout]
    exact toPwm_toRaw_bounds hc hmin hmax hlow hhigh

end Sys2Proof.Machine
end

section
/-! PROOFS. The stuffing and checksum engine (42_stuff_checksum.md): what ERST, ERAW, EPUSH, ECHK and ECMT do (R182 to
R186), what the checksum is over (R187), and the framed unit that a sequence of them commits or drops (R188). -/

namespace Sys2Proof.Machine

/-! ### The shared operation that each engine command is -/

theorem exec_erst (s : State) : exec .erst s = .next (startUnit s) := rfl

theorem exec_eraw (b : Byte) (s : State) : exec (.eraw b) s = .next (emit b s) := rfl

theorem exec_epush (b : Byte) (s : State) : exec (.epush b) s = .next (push b s) := rfl

theorem exec_echk (s : State) : exec .echk s = .next (pushChecksum s) := rfl

theorem exec_ecmt (s : State) : exec .ecmt s = .next (commit s) := rfl

/-- Settles O33: ERST is `startUnit`, and its one opcode byte is its whole encoding. -/
theorem erstStartsANewUnit : Obligations.ErstStartsANewUnit := ⟨decode_encode_append .erst, exec_erst⟩

/-! ### The checksum and the stuffed emission (R181, R184, R185, R187) -/

theorem push_chk (x : Byte) (s : State) : (push x s).chk = s.chk ^^^ x := emitAll_chk_eq _ _

/-- The checksum pushed into itself cancels, so its stuffed bytes are emitted with `CHK` at 0. -/
theorem pushChecksum_eq (s : State) : pushChecksum s = emitAll (stuff s.chk) { s with chk := 0x00 } := by
  rw [pushChecksum, push, BitVec.xor_self]
  rfl

theorem execAll_eraw (bs : List Byte) (s : State) : execAll (bs.map .eraw) s = .next (emitAll bs s) := by
  induction bs generalizing s with
  | nil => rfl
  | cons b bs ih => exact ih (emit b s)

/-- The stuffed emission of a byte, as ERAW commands: the byte itself, or its two-byte escape (30_encoding.md R93). -/
theorem eraw_of_stuff (x : Byte) (s : State) :
    (x ≠ 0x7E → x ≠ 0x7D → exec (.eraw x) s = .next (emitAll (stuff x) s)) ∧
    (x = 0x7E → execAll [.eraw 0x7D, .eraw 0x5E] s = .next (emitAll (stuff x) s)) ∧
    (x = 0x7D → execAll [.eraw 0x7D, .eraw 0x5D] s = .next (emitAll (stuff x) s)) := by
  refine ⟨fun hsent hesc => ?plain, ?sentinel, ?escape⟩
  case plain => rw [stuff_plain x hsent hesc]; exact exec_eraw x s
  case sentinel => rintro rfl; exact execAll_eraw [0x7D, 0x5E] s
  case escape => rintro rfl; exact execAll_eraw [0x7D, 0x5D] s

/-- Settles O35: EPUSH is the stuffed emission after the checksum is updated. -/
theorem epushChecksumsThenStuffs : Obligations.EpushChecksumsThenStuffs :=
  ⟨fun b => decode_encode_append (.epush b), fun x s => ⟨_, exec_epush x s, push_chk x s, eraw_of_stuff x _⟩⟩

/-- Settles O36: ECHK is the stuffed emission of the old checksum after `CHK` is cleared. -/
theorem echkPushesTheChecksum : Obligations.EchkPushesTheChecksum := by
  refine ⟨decode_encode_append .echk, fun s => ⟨_, exec_echk s, ?_⟩⟩
  rw [pushChecksum_eq]
  exact ⟨emitAll_chk_eq _ _, eraw_of_stuff s.chk _⟩

/-- Where each command takes `CHK` to `f CHK`, a sequence folds `f` over its commands. -/
theorem execAll_chk_foldl {f : Byte → Instr → Byte} {cmds : List Instr}
    (hstep : ∀ i ∈ cmds, ∀ s, ∃ t, exec i s = .next t ∧ t.chk = f s.chk i) (s : State) :
    ∃ t, execAll cmds s = .next t ∧ t.chk = cmds.foldl f s.chk := by
  induction cmds generalizing s with
  | nil => exact ⟨s, rfl, rfl⟩
  | cons i is ih =>
    rw [List.forall_mem_cons] at hstep
    obtain ⟨u, hexec, hchk⟩ := hstep.1 s
    rw [execAll_cons_of_next hexec, List.foldl_cons, ← hchk]
    exact ih hstep.2 u

/-- Settles O38: ERST starts the fold at 0, EPUSH XORs its operand, and ERAW keeps `CHK`. -/
theorem checksumIsOverUnstuffedBytes : Obligations.ChecksumIsOverUnstuffedBytes := by
  intro s cmds hcmds
  rw [execAll_cons_of_next (exec_erst s)]
  refine execAll_chk_foldl (fun i hi u => ?step) (startUnit s)
  case step =>
    obtain ⟨b, rfl | rfl⟩ := hcmds i hi
    · exact ⟨_, exec_epush b u, push_chk b u⟩
    · exact ⟨_, exec_eraw b u, emit_chk_eq b u⟩

/-! ### The bounded write (R180, R183) -/

theorem lineMax_le_of_valid {c : Config} (hc : c.Valid) : c.lineMax ≤ 65535 := by
  obtain ⟨_, _, _, _, _, _, hlineMax⟩ := hc
  exact hlineMax

/-- The 16-bit cursor holds every length that fits in the line (10_state.md R33). -/
theorem toNat_ofNat_of_le_lineMax {c : Config} {n : Nat} (hc : c.Valid) (hn : n ≤ c.lineMax) :
    (BitVec.ofNat 16 n).toNat = n := by
  have hlineMax := lineMax_le_of_valid hc
  exact Nat.mod_eq_of_lt (by omega)

/-- Settles O34: the three cases of `Emit`; the cursor cannot wrap, as `LINE_MAX` is at most 65535. -/
theorem erawIsABoundedWrite : Obligations.ErawIsABoundedWrite := by
  refine ⟨fun b => decode_encode_append (.eraw b), fun b s htovf => ?dropped,
    fun b s hvalid hsize htovf hroom => ?written, fun b s htovf hfull => ?overflow⟩
  case dropped => rw [exec_eraw, emit_dropped htovf]
  case written =>
    have hlineMax := lineMax_le_of_valid hvalid
    have hcursor : (s.tlen + 1).toNat = s.tlen.toNat + 1 := BitVec.toNat_add_of_lt (show s.tlen.toNat + 1 < 2 ^ 16 by omega)
    rw [exec_eraw, emit_room htovf hroom]
    exact ⟨_, rfl, rfl, hcursor, List.getElem?_set_self (hsize ▸ hroom), fun i hi => List.getElem?_set_ne hi.symm⟩
  case overflow => rw [exec_eraw, emit_full htovf hfull, dropUnit]

/-! ### The commit (R186) -/

theorem length_committed {s : State} (hlen : s.tlen.toNat ≤ s.tbuf.length) :
    ((s.tbuf.take s.tlen.toNat).map some).length = s.tlen.toNat :=
  (List.length_map _).trans (List.length_take_of_le hlen)

/-- A second commit copies the same bytes again. -/
theorem commit_commit {s : State} (htovf : s.tovf = false) (hpos : 0 < s.tlen.toNat)
    (hlen : s.tlen.toNat ≤ s.tbuf.length) : commit (commit s) = commit s := by
  rw [commit_ok s htovf hpos, commit_ok _ (by exact htovf) (by exact hpos)]
  simp only [List.drop_left' (length_committed hlen)]

/-- Settles O37: the copied bytes stand before the kept ones in `TFRONT`, and a unit with nothing to copy stays. -/
theorem ecmtCommitsTheBackBuffer : Obligations.EcmtCommitsTheBackBuffer := by
  refine ⟨decode_encode_append .ecmt, fun s htovf hpos hlen hback _ => ?commits, fun s hunit => ?nothing⟩
  case commits =>
    have hin : s.tlen.toNat ≤ s.tbuf.length := hback ▸ hlen
    have hcopied := length_committed hin
    have hagain : exec .ecmt (commit s) = .next (commit s) := by rw [exec_ecmt, commit_commit htovf hpos hin]
    have hfront : (commit s).tfront = (s.tbuf.take s.tlen.toNat).map some ++ s.tfront.drop s.tlen.toNat := by
      rw [commit_ok s htovf hpos]
    refine ⟨commit s, exec_ecmt s, ?frame, fun i hi => ?copied, fun i hi => ?kept, hagain⟩
    case frame => rw [commit_ok s htovf hpos]
    case copied =>
      rw [hfront, List.getElem?_append_left (hcopied.symm ▸ hi), List.getElem?_map, List.getElem?_take_of_lt hi]
    case kept =>
      rw [hfront, List.getElem?_append_right (hcopied.symm ▸ hi), hcopied, List.getElem?_drop, Nat.add_sub_cancel' hi]
  case nothing => rw [exec_ecmt, commit_no s (hunit.imp_right (congrArg BitVec.toNat))]

/-! ### A whole unit (R188) -/

/-- A new unit that fits in the line is committed whole; behind it both buffers keep their bytes. -/
theorem commit_unit_of_fit {s : State} {unit : List Byte} (hvalid : s.cfg.Valid) (hsize : s.tbuf.length = s.cfg.lineMax)
    (hpos : 0 < unit.length) (hfit : unit.length ≤ s.cfg.lineMax) :
    commit { emitAll unit (startUnit s) with chk := 0x00 } = { s with
      chk := 0x00, tovf := false, tlen := BitVec.ofNat 16 unit.length
      tbuf := unit ++ s.tbuf.drop unit.length
      tfront := unit.map some ++ s.tfront.drop unit.length
      tflen := BitVec.ofNat 16 unit.length, tfv := true } := by
  have hlen := toNat_ofNat_of_le_lineMax hvalid hfit
  have hemitted : emitAll unit (startUnit s) = { startUnit s with
      tbuf := unit ++ s.tbuf.drop unit.length, tlen := BitVec.ofNat 16 unit.length } := by
    rw [emitAll_fit unit (startUnit s) (lineMax_le_of_valid hvalid) hsize rfl ((Nat.zero_add _).trans_le hfit)]
    simp
  rw [hemitted, commit_ok _ rfl (hlen.symm ▸ hpos)]
  simp only [hlen, List.take_left, startUnit]

/-- A new unit that does not fit is dropped whole: the front buffer keeps its frame. -/
theorem commit_unit_of_overflow {s : State} {unit : List Byte} (hvalid : s.cfg.Valid)
    (hsize : s.tbuf.length = s.cfg.lineMax) (hlong : s.cfg.lineMax < unit.length) :
    commit { emitAll unit (startUnit s) with chk := 0x00 } = { s with
      chk := 0x00, tovf := true, tlen := 0, tbuf := unit.take s.cfg.lineMax } := by
  have hemitted : emitAll unit (startUnit s) = { startUnit s with
      tovf := true, tbuf := unit.take s.cfg.lineMax } := by
    rw [emitAll_over unit (startUnit s) (lineMax_le_of_valid hvalid) hsize rfl (Nat.zero_le _)
      (hlong.trans_eq (Nat.zero_add _).symm)]
    simp
  rw [hemitted, commit_no _ (.inl rfl), startUnit]

theorem framedUnit_length_pos (sent : Byte) (payload : List Byte) : 0 < (framedUnit sent payload).length := by
  rw [length_framedUnit]
  omega

/-- The engine sequence of R188 comes to one commit of the emitted framed unit. -/
theorem execAll_framing (sent : Byte) (payload : List Byte) (s : State) :
    execAll ([.erst, .eraw sent] ++ payload.map .epush ++ [.echk, .eraw sent, .ecmt]) s =
      .next (commit { emitAll (framedUnit sent payload) (startUnit s) with chk := 0x00 }) := by
  have hpushed : execAll ([.erst, .eraw sent] ++ payload.map .epush) s =
      .next (pushAll payload (emit sent (startUnit s))) := execAll_epush payload _
  rw [execAll_append hpushed, ← build_framedUnit]
  rfl

/-- Settles O39: the sequence builds `framedUnit`, and its length alone decides between commit and drop. -/
theorem engineSequenceBuildsTheFramedUnit : Obligations.EngineSequenceBuildsTheFramedUnit := by
  intro s sent payload hvalid hback _
  refine ⟨_, execAll_framing sent payload s, fun hfit => ?committed, fun hlong => ?dropped⟩
  case committed =>
    have hlen := toNat_ofNat_of_le_lineMax hvalid hfit
    rw [commit_unit_of_fit hvalid hback (framedUnit_length_pos sent payload) hfit]
    exact ⟨rfl, hlen, List.take_left' ((List.length_map _).trans hlen.symm)⟩
  case dropped =>
    rw [commit_unit_of_overflow hvalid hback hlong]
    exact ⟨rfl, rfl, rfl, rfl, rfl⟩

end Sys2Proof.Machine
end

section
/-! PROOFS. The trainer encoder (43_trainer_encoder.md): the frame TENC commits or drops (R201, R204), its checksum where
all pairs are equal (R203), and the notification TTX sends (R202). -/

namespace Sys2Proof.Machine

/-! ### TENC (R201, R204) -/

theorem trainerFrame_length_pos (w : Channels) : 0 < (trainerFrame w).length :=
  framedUnit_length_pos sentinel (trainerPayload w)

/-- TENC comes to one commit of the emitted trainer frame, with `CHK` at 0. -/
theorem exec_tenc_eq_commit_unit (w : Channels) (s : State) :
    exec (.tenc w) s = .next (commit { emitAll (trainerFrame w) (startUnit s) with chk := 0x00 }) := by
  rw [exec_tenc, buildTrainer_eq]

/-- Settles O42: TENC commits one unit, so the trainer frame's length alone decides between commit and drop. -/
theorem tencBuildsAndCommitsTheTrainerFrame : Obligations.TencBuildsAndCommitsTheTrainerFrame := by
  refine ⟨fun w => decode_encode_append (.tenc w), fun w s hvalid hsize => ⟨fun hfit => ?committed, fun hlong => ?dropped⟩⟩
  case committed =>
    rw [exec_tenc_eq_commit_unit, commit_unit_of_fit hvalid hsize (trainerFrame_length_pos w) hfit]
  case dropped => rw [exec_tenc_eq_commit_unit, commit_unit_of_overflow hvalid hsize hlong]

/-! ### The checksum of equal pairs (R203) -/

theorem xorAll_append (xs ys : List Byte) : xorAll (xs ++ ys) = xorAll xs ^^^ xorAll ys := by
  induction xs with
  | nil => exact BitVec.zero_xor.symm
  | cons x xs ih => rw [List.cons_append, xorAll_cons, xorAll_cons, ih, BitVec.xor_assoc]

/-- Eight equal pairs have one XOR between them, which cancels two by two. -/
theorem xorAll_packedPairs_of_equal {w : Channels}
    (hequal : ∀ (k : Nat) (h : k < 8), pack3 w[0] w[1] = pack3 w[2 * k] w[2 * k + 1]) :
    xorAll (packedPairs w) = 0x00 := by
  rw [packedPairs, ← hequal 1 (by decide), ← hequal 2 (by decide), ← hequal 3 (by decide), ← hequal 4 (by decide),
    ← hequal 5 (by decide), ← hequal 6 (by decide), ← hequal 7 (by decide)]
  simp only [xorAll_append, BitVec.xor_self, BitVec.zero_xor, BitVec.ofNat_eq_ofNat]

/-- Settles O46: the packed bytes cancel and leave the frame type, which is not stuffed. -/
theorem equalPairsGiveChecksum80 : Obligations.EqualPairsGiveChecksum80 := by
  intro w hequal
  have hchecksum : xorAll (trainerPayload w) = 0x80 := by
    rw [trainerPayload, xorAll_cons, xorAll_packedPairs_of_equal hequal]
    rfl
  have hframe : trainerFrame w = [0x7E] ++ (trainerPayload w).flatMap stuff ++ [0x80] ++ [0x7E] := by
    rw [trainerFrame, framedUnit, hchecksum, stuff_plain 0x80 (by decide) (by decide), sentinel]
  refine ⟨hchecksum, hframe, fun s hvalid hsize hfit => ?committed⟩
  case committed =>
    have hlen := toNat_ofNat_of_le_lineMax hvalid hfit
    obtain ⟨_, htenc⟩ := tencBuildsAndCommitsTheTrainerFrame
    obtain ⟨hcommit, _⟩ := htenc w s hvalid hsize
    rw [← hframe]
    exact ⟨_, hcommit hfit, List.take_left' ((List.length_map _).trans hlen.symm)⟩

/-! ### TTX (R202) -/

/-- The front bytes are the frame that stands at the head of `TFRONT`, where `TFLEN` is its length. -/
theorem frontBytes_eq {s : State} {frame : List Byte} {beyond : List (Option Byte)}
    (hfront : s.tfront = frame.map some ++ beyond) (hlen : s.tflen.toNat = frame.length) : frontBytes s = frame := by
  refine List.ext_getElem (by simp [frontBytes, hlen]) fun i _ hi => ?_
  have hbyte : s.tfront[i]? = some (some frame[i]) := by
    rw [hfront, List.getElem?_append_left (by simpa using hi)]
    simp [hi]
  simp [frontBytes, frontByte, hbyte]

/-- Settles O43: what TTX sends is the committed frame, or nothing while `TFV` is 0. -/
theorem ttxSendsTheCommittedFrame : Obligations.TtxSendsTheCommittedFrame := by
  refine ⟨decode_encode_append .ttx, fun s frame beyond hv hfront hlen => ?sent, fun s hv => ?nothing⟩
  case sent => rw [exec_ttx, ttxSent, if_pos hv, frontBytes_eq hfront hlen]
  case nothing => rw [exec_ttx, ttxSent, if_neg (by simp [hv]), List.append_nil]

end Sys2Proof.Machine
end

section
/-! PROOFS. Control and status (44_control.md): where the fields of the three status words stand (R222 to R224), the
response of STAT (R221), and the state RST leaves (R220). -/

namespace Sys2Proof.Machine

/-! ### The fields of a status word (R222 to R224) -/

/-- A field's bits stand from `lo` on, and below and above them the word is zero. -/
@[simp] theorem getElem_statusField {n : Nat} (v : BitVec n) (lo : Nat) {i : Nat} (hi : i < 32) :
    (statusField v lo)[i] = (decide (lo ≤ i) && v.getLsbD (i - lo)) := by
  by_cases hlo : lo ≤ i
  · simp [statusField, hlo]
  · simp [statusField, hlo, Nat.lt_of_not_le hlo]

/-- A field read where it stands gives its value. -/
theorem extractLsb'_statusField {n lo : Nat} (v : BitVec n) (hfits : lo + n ≤ 32) :
    (statusField v lo).extractLsb' lo n = v := by
  ext i hi
  have hin : lo + i < 32 := by omega
  simp [hin, BitVec.getLsbD_eq_getElem hi]

/-- `m` bits read from `p` on are zero where the field stands apart from them. -/
theorem extractLsb'_statusField_of_apart {n lo p m : Nat} (v : BitVec n) (hapart : p + m ≤ lo ∨ lo + n ≤ p) :
    (statusField v lo).extractLsb' p m = 0#m := by
  ext i hi
  by_cases hin : p + i < 32
  · rcases hapart with hbelow | habove
    · have hlow : ¬ lo ≤ p + i := by omega
      simp [hlow, BitVec.getLsbD_eq_getElem hin]
    · have hhigh : n ≤ p + i - lo := by omega
      simp [BitVec.getLsbD_eq_getElem hin, BitVec.getLsbD_of_ge v _ hhigh]
  · simp [BitVec.getLsbD_of_ge _ _ (Nat.le_of_not_lt hin)]

@[simp] theorem getElem_flagBit (b : Bool) : (flagBit b)[0] = b := by simp [flagBit]

@[simp] theorem getElem_pstateBit (p : PState) : p.bit[0] = (p == .filling) := by
  cases p with
  | seeking => rfl
  | filling => rfl

/-- Settles O15: a field is read where it stands, and the other fields of its word stand apart from it. -/
theorem statusWordFields : Obligations.StatusWordFields := by
  intro s
  have hW0 : (statusW0 s).extractLsb' 1 5 = s.cnt ∧ (statusW0 s).extractLsb' 12 4 = 0 ∧
      (statusW0 s).extractLsb' 16 8 = s.prev ∧ (statusW0 s).extractLsb' 24 8 = s.chk := by
    simp [statusW0, BitVec.extractLsb'_or, extractLsb'_statusField, extractLsb'_statusField_of_apart]
  have hW1 : (statusW1 s).extractLsb' 0 16 = s.errcnt ∧ (statusW1 s).extractLsb' 16 16 = s.tlen := by
    simp [statusW1, BitVec.extractLsb'_or, extractLsb'_statusField, extractLsb'_statusField_of_apart]
  have hW2 : (statusW2 s).extractLsb' 0 16 = s.tflen ∧ (statusW2 s).extractLsb' 16 16 = 0 := by
    simp [statusW2, extractLsb'_statusField, extractLsb'_statusField_of_apart]
  obtain ⟨hcnt, hzeros, hprev, hchk⟩ := hW0
  obtain ⟨herrcnt, htlen⟩ := hW1
  refine ⟨?pstate, hcnt, ?new, ?lvalid, ?prevV, ?stxv, ?tovf, ?tfv, hzeros, hprev, hchk, herrcnt, htlen, hW2⟩
  all_goals simp [statusW0]

/-! ### STAT (R221) -/

/-- Settles O14: STAT is one response of the status words. -/
theorem statRespondsWithTheStatusWords : Obligations.StatRespondsWithTheStatusWords :=
  ⟨decode_encode_append .stat, exec_stat⟩

/-! ### RST (R220) -/

theorem exec_rst (s : State) : exec .rst s = .next (resetRegisters s) := rfl

theorem State.SameButUnread.refl (s : State) : s.SameButUnread s := ⟨rfl, fun _ _ _ => rfl, rfl, rfl⟩

/-- The unspecified bytes depend on the offset in CMD alone, which RST keeps. -/
theorem resetRegisters_resetRegisters (s : State) : resetRegisters (resetRegisters s) = resetRegisters s := rfl

/-- With no byte received yet there is no byte before `b` to be a footer, so `b` starts no frame. -/
theorem rxByte_resetRegisters (b : Byte) (s : State) :
    rxByte b (resetRegisters s) = { resetRegisters s with prev := b, prevV := true } :=
  rxByte_discard rfl (by simp [startsFrame])

@[simp] theorem statusField_zero (n lo : Nat) : statusField 0#n lo = 0 := by simp [statusField]

@[simp] theorem flagBit_false : flagBit false = 0 := rfl

@[simp] theorem pstateBit_seeking : PState.bit .seeking = 0 := rfl

theorem statusWords_resetRegisters (s : State) :
    statusW0 (resetRegisters s) = 0 ∧ statusW1 (resetRegisters s) = 0 ∧ statusW2 (resetRegisters s) = 0 := by
  simp [statusW0, statusW1, statusW2]

/-- STAT after RST responds with three zero words. -/
theorem exec_stat_resetRegisters (s : State) :
    exec .stat (resetRegisters s) = .next (respond (List.replicate 12 0x00) (resetRegisters s)) := by
  obtain ⟨hW0, hW1, hW2⟩ := statusWords_resetRegisters s
  rw [exec_stat, hW0, hW1, hW2]
  rfl

/-- Settles O12: `resetRegisters` is what RST comes to, and SRX and STAT read its registers only. -/
theorem rstReturnsEveryRegisterToReset : Obligations.RstReturnsEveryRegisterToReset := by
  refine ⟨decode_encode_append .rst, fun s => ⟨resetRegisters s, exec_rst s, rfl, rfl, rfl, rfl, rfl, rfl, rfl, rfl, rfl,
    rfl, rfl, rfl, rfl, rfl, rfl, rfl, rfl, rfl, rfl, rfl, ?again, fun b => ?firstByte, ?stat⟩⟩
  case again => exact ⟨_, exec_rst _, by rw [resetRegisters_resetRegisters]; exact .refl _⟩
  case firstByte => exact ⟨_, exec_srx b _, by rw [rxByte_resetRegisters]; exact ⟨rfl, rfl⟩⟩
  case stat => exact ⟨_, exec_stat_resetRegisters s, rfl⟩

end Sys2Proof.Machine
end

section
/-! PROOFS. Errors (60_exceptions.md): an admitted command is defined in every state (R236), so a refusal is the decoder's
alone (R233); and a framing error returns the parser to `Seeking` behind a byte that is no footer (R232). -/

namespace Sys2Proof.Machine

/-! ### Every admitted command is defined (R236) -/

/-- SENC and SENCP alone look at their operands before they run. -/
theorem exec_completes {i : Instr} (s : State) (h : i.wellFormed = true) : ∃ t, exec i s = .next t := by
  cases i with
  | senc w fl => exact ⟨_, exec_senc h⟩
  | sencp w fl => exact ⟨_, exec_sencp h⟩
  | _ => exact ⟨_, rfl⟩

/-- Settles O48: only operands outside R103 have no meaning. -/
theorem everyAdmittedCommandCompletes : Obligations.EveryAdmittedCommandCompletes := fun _ s h => exec_completes s h

/-! ### When a step is refused (R233) -/

theorem step_completes_of_decode_ok {s : State} {i : Instr} (hturn : turn s = .host) (hdecode : decode s.cmdIn = .ok i) :
    ∃ t, step s = .next t := by
  obtain ⟨_, _, _, _, _, hwf⟩ := decode_ok hdecode
  obtain ⟨u, hu⟩ := exec_completes s hwf
  exact ⟨passCommand .host i u, by simp only [step, nextCommand, hturn, hdecode, hu, thenNext]⟩

/-- The byte source gives nothing but SRX, which is admitted for every byte (R100). -/
theorem step_completes_of_sbusSource {s : State} (hturn : turn s = .sbusSource) : ∃ t, step s = .next t := by
  cases hrx : s.sbusRx with
  | nil => exact ⟨passTurn s, by simp only [step, nextCommand, hturn, hrx]⟩
  | cons b later =>
    exact ⟨passCommand .sbusSource (.srx b) (rxByte b s),
      by simp only [step, nextCommand, hturn, hrx, exec_srx, thenNext]⟩

theorem ne_refused_of_completes {o : Host.Outcome State Fault Refusal} (h : ∃ t, o = .next t) (r : Refusal) :
    o ≠ .refused r := by
  obtain ⟨t, rfl⟩ := h
  nofun

/-- A refusal is an answer to the decoder's error on CMD: what decodes runs, and SBUS_RX is never refused. -/
theorem step_eq_refused_iff (s : State) (r : Refusal) :
    step s = .refused r ↔ turn s = .host ∧ ∃ e, decode s.cmdIn = .error e ∧ answerTo e s = .refused r := by
  constructor
  · intro hstep
    cases hturn : turn s with
    | sbusSource => exact absurd hstep (ne_refused_of_completes (step_completes_of_sbusSource hturn) r)
    | host =>
      cases hdecode : decode s.cmdIn with
      | ok i => exact absurd hstep (ne_refused_of_completes (step_completes_of_decode_ok hturn hdecode) r)
      | error e => exact ⟨rfl, e, rfl, (step_of_decode_error hturn rfl hdecode).symm.trans hstep⟩
  · rintro ⟨hturn, e, hdecode, hanswer⟩
    exact (step_of_decode_error hturn rfl hdecode).trans hanswer

/-- The decoder's three refusals, each with the offset of the opcode; an empty stream is none of them. -/
theorem answerTo_eq_refused_iff (e : DecodeError) (s : State) (r : Refusal) :
    answerTo e s = .refused r ↔
      (e = .reservedOpcode ∧ r = .reservedOpcode s.cmdPos) ∨ (e = .illFormed ∧ r = .illFormed s.cmdPos) ∨
      (e = .truncated ∧ r = .truncated s.cmdPos) := by
  cases e <;> simp [answerTo, eq_comm]

theorem run_succ_of_refused {s : State} {r : Refusal} (k : Nat) (h : step s = .refused r) :
    Host.Core.run core (k + 1) s = .refused r := by
  have hcore : core.step s = .refused r := h
  simp only [Host.Core.run, hcore]

/-- Settles O7: a step is refused where the decoder finds one of its three errors on the host's turn, and a run ends
there. -/
theorem refusalHasExactlyThreeCauses : Obligations.RefusalHasExactlyThreeCauses := by
  refine ⟨fun s r => ?causes, fun s r k => run_succ_of_refused k⟩
  rw [step_eq_refused_iff]
  refine and_congr_right' ?_
  simp only [answerTo_eq_refused_iff, and_or_left, exists_or, existsAndEq, true_and]

/-! ### A framing error (R232) -/

theorem rxByte_framingError {b : Byte} {s : State} (hp : s.pstate = .filling) (hc : s.cnt = 24)
    (hb : isFooter b = false) :
    rxByte b s = { s with pbuf := s.pbuf.set 24 b, cnt := 0, pstate := .seeking, prev := b, prevV := true
                          errcnt := s.errcnt + 1 } := by
  have hlast : (s.pbuf.set 24 b)[24] = b := Vector.getElem_set_self ..
  simp [rxByte_close b hp hc, closeFrame, hlast, hb]

/-- Behind a byte that is no footer no frame starts, a header neither (90_conflicts.md C4). -/
theorem startsFrame_eq_false_of_prev {s : State} (h : Byte) (hprev : isFooter s.prev = false) :
    startsFrame h s = false := by
  simp [startsFrame, hprev]

/-- Settles O20: the bad byte is the `PREV` the next byte finds, so whatever that byte is, it is discarded. -/
theorem framingErrorIsCountedAndRecovered : Obligations.FramingErrorIsCountedAndRecovered := by
  intro s b hp hc hb
  have hcnt : s.cnt = 24 := BitVec.eq_of_toNat_eq hc
  refine ⟨_, (exec_srx b s).trans (congrArg _ (rxByte_framingError hp hcnt hb)), rfl, rfl, rfl,
    BitVec.toNat_add .., rfl, rfl, rfl, fun h => ⟨_, exec_srx h _, ?_⟩⟩
  rw [rxByte_discard rfl (startsFrame_eq_false_of_prev h hb)]
  exact ⟨rfl, rfl, rfl⟩

end Sys2Proof.Machine
end

section
/-! PROOFS. The line-length hazard (70_reset_and_hazards.md R269): which lines drop some, every or no trainer frame. -/

namespace Sys2Proof.Machine

theorem le_length_trainerFrame (w : Channels) : 28 ≤ (trainerFrame w).length :=
  (Nat.le_add_right 28 _).trans_eq (length_trainerFrame w).symm

theorem length_trainerFrame_allStuffed : (trainerFrame allStuffed).length = 52 := by
  rw [length_trainerFrame, stuffedCount_of_all _ all_needsStuffing_allStuffed]

/-- Settles O45: TENC commits or drops by the frame's length alone, which is 28 at least and 52, reached, at most. -/
theorem shortLinesMakeTencOverflow : Obligations.ShortLinesMakeTencOverflow := by
  obtain ⟨_, htenc⟩ := tencBuildsAndCommitsTheTrainerFrame
  refine ⟨fun s hvalid hsize hshort => ?some, fun w s hvalid hsize hshort => ?every, fun w s hvalid hsize hroom => ?none⟩
  case some =>
    obtain ⟨_, hdrop⟩ := htenc allStuffed s hvalid hsize
    exact ⟨allStuffed, _, hdrop (hshort.trans_eq length_trainerFrame_allStuffed.symm), rfl, rfl, rfl, rfl⟩
  case every =>
    obtain ⟨_, hdrop⟩ := htenc w s hvalid hsize
    exact ⟨_, hdrop (hshort.trans_le (le_length_trainerFrame w)), rfl⟩
  case none =>
    obtain ⟨hcommit, _⟩ := htenc w s hvalid hsize
    exact ⟨_, hcommit ((length_trainerFrame_le w).trans hroom), rfl, rfl⟩

end Sys2Proof.Machine
end

section
/-! PROOFS. The round trip of the encoding (30_encoding.md section 3), one step on each agent's turn (20_memory.md section 4), and
the reset state (70_reset_and_hazards.md section 1). -/

namespace Sys2Proof.Machine

/-! ### Decoding and encoding (R101 to R104) -/

/-- Settles O1: the opcode byte selects the row, and the operand bytes assemble to the operands. -/
theorem decodeOfEncodedCommand : Obligations.DecodeOfEncodedCommand := by
  intro i rest hwf
  exact ⟨by rw [decode_encode_append, if_pos hwf], length_encode i⟩

/-- Settles O2: the bytes of a decoded command are those its row assembled it from. -/
theorem encodeOfDecodedCommand : Obligations.EncodeOfDecodedCommand := by
  intro bs i hdecode
  obtain ⟨o, r, rfl, hlen, rfl, hwf⟩ := decode_ok hdecode
  have hlength : (o.assemble (o.byte :: r)).length = o.format.length := by rw [Instr.length, opcode_assemble]
  rw [hlength]
  exact ⟨hwf, hlen, (encode_assemble o r hlen).symm⟩

/-- Settles O3: each byte list is an encoding, SPOLL's with one byte behind it. -/
theorem wordsFromTheOpcodeMapDecode : Obligations.WordsFromTheOpcodeMapDecode :=
  ⟨decode_encode_append .rst [], decode_encode_append .stat [], decode_encode_append (.srx 0x5A) [],
    decode_encode_append .spoll [0x10], decode_encode_append .stx [], decode_encode_append .erst [],
    decode_encode_append (.eraw 0x7E) [], decode_encode_append (.epush 0x7D) [], decode_encode_append .echk [],
    decode_encode_append .ecmt [], decode_encode_append .ttx []⟩

/-! ### One step (20_memory.md R67, 30_encoding.md R100, 60_exceptions.md R244) -/

theorem step_of_decode_ok {s : State} {i : Instr} (hturn : turn s = .host) (hdecode : decode s.cmdIn = .ok i) :
    step s = thenNext (passCommand .host i) (exec i s) := by
  simp only [step, nextCommand, hturn, hdecode]

theorem step_of_no_received_byte {s : State} (hturn : turn s = .sbusSource) (hrx : s.sbusRx = []) :
    step s = .next (passTurn s) := by
  simp only [step, nextCommand, hturn, hrx]

/-- Settles O8: the host's next command is the decoded one, and it is passed over by its encoding's length. -/
theorem stepRunsTheDecodedCommand : Obligations.StepRunsTheDecodedCommand := by
  intro s i hturn hdecode
  have hlen : (encode i).length = i.length := length_encode i
  rw [step_of_decode_ok hturn hdecode, hlen]
  cases exec i s <;> rfl

/-- Settles O9: the byte source's next command is SRX of its oldest byte, which does not look at what is pending. -/
theorem stepRunsAReceivedByteAsSrx : Obligations.StepRunsAReceivedByteAsSrx := by
  intro s b later order horder hrx
  have hs : s = withPending (b :: later) (.sbusSource :: order) s := by rw [← hrx, ← horder]; rfl
  exact ⟨rxByte b s, exec_srx b s, (congrArg step hs).trans (step_withPending b later order s)⟩

/-- Settles O10: an empty stream decodes to no command, and SBUS_RX without a byte gives none. -/
theorem stepHoldsItsStateWithNothingToAccept : Obligations.StepHoldsItsStateWithNothingToAccept := by
  refine ⟨fun s hturn hin => ?host, fun s order horder hrx => ?source⟩
  case host => exact step_of_decode_error hturn hin rfl
  case source =>
    have hturn : turn s = .sbusSource := by rw [turn, horder, List.headD_cons]
    rw [step_of_no_received_byte hturn hrx, passTurn, horder, List.tail_cons]

/-! ### Reset (70_reset_and_hazards.md R260, R261) -/

/-- Settles O13: RST writes the power-on values everywhere but in the two unread buffers, whose cursors are then 0. -/
theorem powerOnResetEqualsRst : Obligations.PowerOnResetEqualsRst := fun s =>
  ⟨resetRegisters s, exec_rst s, rfl, fun i _ hi => absurd hi (Nat.not_lt_zero i), by simp [State.resetWith], rfl⟩

theorem statusWords_resetWith (c : Config) :
    statusW0 (State.resetWith c) = 0 ∧ statusW1 (State.resetWith c) = 0 ∧ statusW2 (State.resetWith c) = 0 := by
  simp [statusW0, statusW1, statusW2, State.resetWith]

/-- STAT from reset responds with three zero words. -/
theorem exec_stat_resetWith (c : Config) :
    exec .stat (State.resetWith c) = .next (respond (List.replicate 12 0x00) (State.resetWith c)) := by
  obtain ⟨hW0, hW1, hW2⟩ := statusWords_resetWith c
  rw [exec_stat, hW0, hW1, hW2]
  rfl

/-- Settles O16: every field of the status words is zero, and no valid bit is set. -/
theorem resetStateIsObservedAsZero : Obligations.ResetStateIsObservedAsZero := fun c =>
  ⟨⟨_, exec_stat_resetWith c, rfl⟩, ⟨_, exec_spoll_of_no_frame rfl, rfl⟩, ⟨_, exec_stx_of_no_frame rfl, rfl⟩,
    ⟨_, exec_ttx _, rfl⟩⟩

/-! ### The invariant (10_state.md R40) -/

/-- Settles O54: the registers of reset are empty, so each part of the invariant holds of them. -/
theorem invariantHoldsAtReset : Obligations.InvariantHoldsAtReset := fun _ => inv_resetWith

/-- Settles O55: a step waits or runs one command, and each command keeps the part of the invariant it writes. -/
theorem invariantIsKeptByEveryStep : Obligations.InvariantIsKeptByEveryStep := fun _ _ => State.Inv.after_step

end Sys2Proof.Machine
end

section
/-! PROOFS. What each command leaves unchanged: the flags (10_state.md R38), the buffers (20_memory.md R60), the ports
(00_scope.md R6), the parameters (10_state.md R37), an overflowed unit (60_exceptions.md R234), and the front buffer during a
build (70_reset_and_hazards.md R265). -/

namespace Sys2Proof.Machine

/-! ### The one part that each command writes -/

/-- `s` with what the command writes, taken from `t` where it depends on more than the command. -/
def withWrites (i : Instr) (t s : State) : State :=
  match i with
  | .rst => resetRegisters s
  | .stat => { s with rsp := t.rsp }
  | .srx _ => withParserOf t s
  | .spoll => { s with rsp := t.rsp, new := false }
  | .senc _ _ => { s with stxb := t.stxb, stxv := true }
  | .sencp _ _ => { s with stxb := t.stxb, stxv := true }
  | .stx => { s with sbusTx := t.sbusTx }
  | .erst => startUnit s
  | .eraw _ => withEngineOf t s
  | .epush _ => withEngineOf t s
  | .echk => withEngineOf t s
  | .ecmt => withFrontOf t s
  | .tenc _ => withFrontOf t (withEngineOf t s)
  | .ttx => { s with bleTx := t.bleTx }

theorem commit_withEngineOf {s t : State} (h : t = withEngineOf t s) :
    commit t = withFrontOf (commit t) (withEngineOf (commit t) s) := by
  obtain ⟨hcommit, _⟩ := commit_frame t
  rw [hcommit]
  exact congrArg (withFrontOf (commit t)) h

theorem exec_eq_withWrites {i : Instr} {s t : State} (h : exec i s = .next t) : t = withWrites i t s := by
  have hshape := exec_shape h
  cases i with
  | rst => exact hshape
  | stat => obtain ⟨_, rfl⟩ := hshape; rfl
  | srx b => obtain rfl := hshape; exact rxByte_eq b s
  | spoll => obtain ⟨_, rfl⟩ := hshape; rfl
  | senc w fl => obtain ⟨_, rfl, _⟩ := hshape; rfl
  | sencp w fl => obtain ⟨_, rfl, _⟩ := hshape; rfl
  | stx => obtain ⟨_, rfl⟩ := hshape; rfl
  | erst => exact hshape
  | eraw b => obtain rfl := hshape; exact emit_frame b s
  | epush b => obtain rfl := hshape; exact push_frame b s
  | echk => obtain rfl := hshape; exact push_frame _ s
  | ecmt => obtain rfl := hshape; exact (commit_frame s).1
  | tenc w => rw [show t = commit (buildTrainerFrame w s) from hshape]; exact commit_withEngineOf (buildTrainer_frame w s)
  | ttx => obtain ⟨_, rfl⟩ := hshape; rfl

/-- A field of `t` is what the command writes to it, and the field of `s` where it writes nothing. -/
theorem exec_field {α : Type} (field : State → α) {i : Instr} {s t : State} (h : exec i s = .next t) :
    field t = field (withWrites i t s) := congrArg field (exec_eq_withWrites h)

/-- Settles O52: no command's part holds a parameter or pending input. -/
theorem commandsKeepParametersAndPendingInput : Obligations.CommandsKeepParametersAndPendingInput := by
  intro i s t h
  cases i <;>
    exact ⟨exec_field State.cfg h, exec_field State.cmdIn h, exec_field State.cmdPos h, exec_field State.sbusRx h,
      exec_field State.acceptOrder h⟩

/-! ### The output ports (R262) -/

theorem port_kept {α : Type} {sent sent' : List α} {P : Prop} (h : sent' = sent) :
    sent <+: sent' ∧ (sent' ≠ sent → P) :=
  ⟨⟨[], (List.append_nil sent).trans h.symm⟩, fun hne => absurd h hne⟩

theorem exec_sbusTx {i : Instr} {s t : State} (h : exec i s = .next t) :
    s.sbusTx <+: t.sbusTx ∧ (t.sbusTx ≠ s.sbusTx → i = .stx) := by
  cases i with
  | stx => obtain ⟨sent, rfl⟩ := exec_shape h; exact ⟨⟨sent, rfl⟩, fun _ => rfl⟩
  | _ => exact port_kept (exec_field State.sbusTx h)

theorem exec_bleTx {i : Instr} {s t : State} (h : exec i s = .next t) :
    s.bleTx <+: t.bleTx ∧ (t.bleTx ≠ s.bleTx → i = .ttx) := by
  cases i with
  | ttx => obtain ⟨sent, rfl⟩ := exec_shape h; exact ⟨⟨sent, rfl⟩, fun _ => rfl⟩
  | _ => exact port_kept (exec_field State.bleTx h)

theorem exec_rsp {i : Instr} {s t : State} (h : exec i s = .next t) :
    s.rsp <+: t.rsp ∧ (t.rsp ≠ s.rsp → i = .stat ∨ i = .spoll) := by
  cases i with
  | stat => obtain ⟨response, rfl⟩ := exec_shape h; exact ⟨⟨[response], rfl⟩, fun _ => .inl rfl⟩
  | spoll => obtain ⟨response, rfl⟩ := exec_shape h; exact ⟨⟨[response], rfl⟩, fun _ => .inr rfl⟩
  | _ => exact port_kept (exec_field State.rsp h)

/-- Settles O51: a port's own commands append to it, and the others keep it. -/
theorem outputIsNeverWithdrawn : Obligations.OutputIsNeverWithdrawn := by
  intro i s t h
  obtain ⟨hsbus, hsbusOwn⟩ := exec_sbusTx h
  obtain ⟨hble, hbleOwn⟩ := exec_bleTx h
  obtain ⟨hrsp, hrspOwn⟩ := exec_rsp h
  exact ⟨hsbus, hble, hrsp, hsbusOwn, hbleOwn, hrspOwn⟩

/-! ### The buffers (R60, R69) -/

theorem exec_stxb {i : Instr} {s t : State} (h : exec i s = .next t) :
    (i = .rst ∨ ∃ w fl, i = .senc w fl ∨ i = .sencp w fl) ∨ t.stxb = s.stxb := by
  cases i with
  | rst => exact .inl (.inl rfl)
  | senc w fl => exact .inl (.inr ⟨w, fl, .inl rfl⟩)
  | sencp w fl => exact .inl (.inr ⟨w, fl, .inr rfl⟩)
  | _ => exact .inr (exec_field State.stxb h)

theorem exec_tfront_tflen {i : Instr} {s t : State} (h : exec i s = .next t) :
    (i = .rst ∨ i = .ecmt ∨ ∃ w, i = .tenc w) ∨ t.tfront = s.tfront ∧ t.tflen = s.tflen := by
  cases i with
  | rst => exact .inl (.inl rfl)
  | ecmt => exact .inl (.inr (.inl rfl))
  | tenc w => exact .inl (.inr (.inr ⟨w, rfl⟩))
  | _ => exact .inr ⟨exec_field State.tfront h, exec_field State.tflen h⟩

theorem exec_tbuf {i : Instr} {s t : State} (h : exec i s = .next t) :
    (i = .rst ∨ i = .echk ∨ (∃ b, i = .eraw b ∨ i = .epush b) ∨ ∃ w, i = .tenc w) ∨ t.tbuf = s.tbuf := by
  cases i with
  | rst => exact .inl (.inl rfl)
  | echk => exact .inl (.inr (.inl rfl))
  | eraw b => exact .inl (.inr (.inr (.inl ⟨b, .inl rfl⟩)))
  | epush b => exact .inl (.inr (.inr (.inl ⟨b, .inr rfl⟩)))
  | tenc w => exact .inl (.inr (.inr (.inr ⟨w, rfl⟩)))
  | _ => exact .inr (exec_field State.tbuf h)

theorem exec_pbuf_lframe {i : Instr} {s t : State} (h : exec i s = .next t) :
    (i = .rst ∨ ∃ b, i = .srx b) ∨ t.pbuf = s.pbuf ∧ t.lframe = s.lframe := by
  cases i with
  | rst => exact .inl (.inl rfl)
  | srx b => exact .inl (.inr ⟨b, rfl⟩)
  | _ => exact .inr ⟨exec_field State.pbuf h, exec_field State.lframe h⟩

/-- Settles O50: a buffer that changed was not kept, so the command is one of its writers. -/
theorem buffersHaveOnlyTheirWriters : Obligations.BuffersHaveOnlyTheirWriters := by
  intro i s t h
  exact ⟨(exec_stxb h).resolve_right, fun hne => (exec_tfront_tflen h).resolve_right (not_and_or.2 hne),
    (exec_tbuf h).resolve_right, fun hne => (exec_pbuf_lframe h).resolve_right (not_and_or.2 hne)⟩

/-! ### The flags (R38) -/

/-- What R38 says of one flag: the commands that can set it, and those that can clear it. -/
def FlagRule (flag : State → Bool) (sets clears : Prop) (s t : State) : Prop :=
  (flag s = false → flag t = true → sets) ∧ (flag s = true → flag t = false → clears)

theorem FlagRule.of_kept {flag : State → Bool} {sets clears : Prop} {s t : State} (h : flag t = flag s) :
    FlagRule flag sets clears s t :=
  ⟨fun hs ht => by simp [h, hs] at ht, fun hs ht => by simp [h, hs] at ht⟩

theorem FlagRule.of_cleared {flag : State → Bool} {sets clears : Prop} {s t : State} (h : flag t = false)
    (hclears : clears) : FlagRule flag sets clears s t :=
  ⟨fun _ ht => by simp [h] at ht, fun _ _ => hclears⟩

theorem FlagRule.of_not_cleared {flag : State → Bool} {sets clears : Prop} {s t : State}
    (h : flag s = true → flag t = true) (hsets : sets) : FlagRule flag sets clears s t :=
  ⟨fun _ _ => hsets, fun hs ht => by simp [h hs] at ht⟩

theorem exec_new {i : Instr} {s t : State} (h : exec i s = .next t) :
    FlagRule State.new (∃ b, i = .srx b) (i = .spoll ∨ i = .rst) s t := by
  cases i with
  | rst => exact .of_cleared (exec_field State.new h) (.inr rfl)
  | spoll => exact .of_cleared (exec_field State.new h) (.inl rfl)
  | srx b =>
    obtain rfl := exec_shape h
    obtain ⟨hkeeps, _, _⟩ := rxByte_keeps_flags b s
    exact .of_not_cleared hkeeps ⟨b, rfl⟩
  | _ => exact .of_kept (exec_field State.new h)

theorem exec_lvalid {i : Instr} {s t : State} (h : exec i s = .next t) :
    FlagRule State.lvalid (∃ b, i = .srx b) (i = .rst) s t := by
  cases i with
  | rst => exact .of_cleared (exec_field State.lvalid h) rfl
  | srx b =>
    obtain rfl := exec_shape h
    obtain ⟨_, hkeeps, _⟩ := rxByte_keeps_flags b s
    exact .of_not_cleared hkeeps ⟨b, rfl⟩
  | _ => exact .of_kept (exec_field State.lvalid h)

theorem exec_prevV {i : Instr} {s t : State} (h : exec i s = .next t) :
    FlagRule State.prevV (∃ b, i = .srx b) (i = .rst) s t := by
  cases i with
  | rst => exact .of_cleared (exec_field State.prevV h) rfl
  | srx b => obtain rfl := exec_shape h; exact .of_not_cleared (fun _ => notePrevious_prevV b _) ⟨b, rfl⟩
  | _ => exact .of_kept (exec_field State.prevV h)

theorem exec_stxv {i : Instr} {s t : State} (h : exec i s = .next t) :
    FlagRule State.stxv (∃ w fl, i = .senc w fl ∨ i = .sencp w fl) (i = .rst) s t := by
  cases i with
  | rst => exact .of_cleared (exec_field State.stxv h) rfl
  | senc w fl => exact .of_not_cleared (fun _ => exec_field State.stxv h) ⟨w, fl, .inl rfl⟩
  | sencp w fl => exact .of_not_cleared (fun _ => exec_field State.stxv h) ⟨w, fl, .inr rfl⟩
  | _ => exact .of_kept (exec_field State.stxv h)

/-- After an overflow a push writes `CHK` alone. -/
theorem push_dropped (x : Byte) {s : State} (h : s.tovf = true) : push x s = { s with chk := s.chk ^^^ x } :=
  emitAll_dropped (stuff x) { s with chk := s.chk ^^^ x } h

theorem emit_keeps_tovf (x : Byte) {s : State} (h : s.tovf = true) : (emit x s).tovf = true := by rw [emit_dropped h, h]

theorem push_keeps_tovf (x : Byte) {s : State} (h : s.tovf = true) : (push x s).tovf = true := by rw [push_dropped x h, h]

theorem exec_tovf {i : Instr} {s t : State} (h : exec i s = .next t) :
    FlagRule State.tovf (i = .echk ∨ (∃ b, i = .eraw b ∨ i = .epush b) ∨ ∃ w, i = .tenc w)
      (i = .erst ∨ i = .rst ∨ ∃ w, i = .tenc w) s t := by
  cases i with
  | rst => exact .of_cleared (exec_field State.tovf h) (.inr (.inl rfl))
  | erst => exact .of_cleared (exec_field State.tovf h) (.inl rfl)
  | eraw b => obtain rfl := exec_shape h; exact .of_not_cleared (emit_keeps_tovf b) (.inr (.inl ⟨b, .inl rfl⟩))
  | epush b => obtain rfl := exec_shape h; exact .of_not_cleared (push_keeps_tovf b) (.inr (.inl ⟨b, .inr rfl⟩))
  | echk => obtain rfl := exec_shape h; exact .of_not_cleared (push_keeps_tovf s.chk) (.inl rfl)
  | tenc w => exact ⟨fun _ _ => .inr (.inr ⟨w, rfl⟩), fun _ _ => .inr (.inr ⟨w, rfl⟩)⟩
  | _ => exact .of_kept (exec_field State.tovf h)

theorem withEngineOf_tfv (e s : State) : (withEngineOf e s).tfv = s.tfv := rfl

theorem buildTrainerFrame_tfv (w : Channels) (s : State) : (buildTrainerFrame w s).tfv = s.tfv :=
  (congrArg State.tfv (buildTrainer_frame w s)).trans (withEngineOf_tfv _ s)

theorem exec_tfv {i : Instr} {s t : State} (h : exec i s = .next t) :
    FlagRule State.tfv (i = .ecmt ∨ ∃ w, i = .tenc w) (i = .rst) s t := by
  cases i with
  | rst => exact .of_cleared (exec_field State.tfv h) rfl
  | ecmt => obtain rfl := exec_shape h; exact .of_not_cleared (commit_frame s).2 (.inl rfl)
  | tenc w =>
    rw [show t = commit (buildTrainerFrame w s) from exec_shape h]
    exact .of_not_cleared (fun hs => (commit_frame _).2 ((buildTrainerFrame_tfv w s).trans hs)) (.inr ⟨w, rfl⟩)
  | _ => exact .of_kept (exec_field State.tfv h)

/-- Settles O49: flag by flag, every command outside its row of R38 keeps it. -/
theorem flagsChangeOnlyAsTheTableSays : Obligations.FlagsChangeOnlyAsTheTableSays := by
  intro i s t h
  obtain ⟨newSet, newCleared⟩ := exec_new h
  obtain ⟨lvalidSet, lvalidCleared⟩ := exec_lvalid h
  obtain ⟨prevVSet, prevVCleared⟩ := exec_prevV h
  obtain ⟨stxvSet, stxvCleared⟩ := exec_stxv h
  obtain ⟨tovfSet, tovfCleared⟩ := exec_tovf h
  obtain ⟨tfvSet, tfvCleared⟩ := exec_tfv h
  exact ⟨newSet, newCleared, lvalidSet, lvalidCleared, prevVSet, prevVCleared, stxvSet, stxvCleared, tovfSet, tovfCleared,
    tfvSet, tfvCleared⟩

/-! ### An overflowed unit (R234) -/

/-- Settles O40: `Emit` and the commit do nothing while `TOVF` is 1, and the other commands write neither engine nor front
buffer. -/
theorem overflowLastsUntilANewUnit : Obligations.OverflowLastsUntilANewUnit := by
  intro i s t htovf htlen h
  cases i with
  | rst => exact .inl (.inl rfl)
  | erst => exact .inl (.inr (.inl rfl))
  | tenc w => exact .inl (.inr (.inr ⟨w, rfl⟩))
  | eraw b => obtain rfl := exec_shape h; rw [emit_dropped htovf]; exact .inr ⟨htovf, htlen, rfl, rfl, rfl, rfl⟩
  | epush b => obtain rfl := exec_shape h; rw [push_dropped b htovf]; exact .inr ⟨htovf, htlen, rfl, rfl, rfl, rfl⟩
  | echk =>
    obtain rfl := exec_shape h
    rw [pushChecksum, push_dropped _ htovf]
    exact .inr ⟨htovf, htlen, rfl, rfl, rfl, rfl⟩
  | ecmt => obtain rfl := exec_shape h; rw [commit_no s (.inl htovf)]; exact .inr ⟨htovf, htlen, rfl, rfl, rfl, rfl⟩
  | _ =>
    exact .inr ⟨(exec_field State.tovf h).trans htovf, (exec_field State.tlen h).trans htlen, exec_field State.tbuf h,
      exec_field State.tfront h, exec_field State.tflen h, exec_field State.tfv h⟩

/-! ### A TTX during a build (R265 item 3) -/

/-- The engine's commands but the commit run and write the engine only. -/
theorem exec_engine {i : Instr} (hi : i = .erst ∨ i = .echk ∨ ∃ b, i = .eraw b ∨ i = .epush b) (s : State) :
    ∃ t, exec i s = .next t ∧ t = withEngineOf t s := by
  obtain rfl | rfl | ⟨b, rfl | rfl⟩ := hi
  · exact ⟨_, exec_erst s, rfl⟩
  · exact ⟨_, exec_echk s, push_frame s.chk s⟩
  · exact ⟨_, exec_eraw b s, emit_frame b s⟩
  · exact ⟨_, exec_epush b s, push_frame b s⟩

theorem execAll_engine {cmds : List Instr}
    (hcmds : ∀ i ∈ cmds, i = .erst ∨ i = .echk ∨ ∃ b, i = .eraw b ∨ i = .epush b) (s : State) :
    ∃ t, execAll cmds s = .next t ∧ t = withEngineOf t s := by
  induction cmds generalizing s with
  | nil => exact ⟨s, rfl, rfl⟩
  | cons i is ih =>
    rw [List.forall_mem_cons] at hcmds
    obtain ⟨u, hu, huFrame⟩ := exec_engine hcmds.1 s
    obtain ⟨t, ht, htFrame⟩ := ih hcmds.2 u
    exact ⟨t, (execAll_cons_of_next hu).trans ht, htFrame.trans (congrArg (withEngineOf t) huFrame :)⟩

/-- Settles O47: what TTX sends is read from the front buffer, which is no part of the engine. -/
theorem transmitDuringABuildSendsTheLastCommit : Obligations.TransmitDuringABuildSendsTheLastCommit := by
  intro s cmds hcmds
  obtain ⟨t, ht, hframe⟩ := execAll_engine hcmds s
  have hport : t.bleTx = s.bleTx := (congrArg State.bleTx hframe :)
  have hsent : ttxSent t = ttxSent s := (congrArg ttxSent hframe :)
  exact ⟨t, _, _, ttxSent s, ht, exec_ttx s, exec_ttx t, rfl, congrArg₂ (· ++ ·) hport hsent⟩

end Sys2Proof.Machine
end

section
/-! PROOFS. What reception does not touch (40_sbus_decoder.md R121), and which frame the parser holds after a sequence of bytes
(40_sbus_decoder.md section 5). -/

namespace Sys2Proof.Machine

/-! ### The last completed frame (R129) -/

theorem getElem_set_last (P : Frame) (b : Byte) : (P.set 24 b)[24] = b := Vector.getElem_set_self ..

/-- The close of a frame, in every state in which `fillFrame` has no room left. -/
theorem rxByte_close_of_full (b : Byte) {s : State} (hp : s.pstate = .filling) (hc : 24 ≤ s.cnt.toNat) :
    rxByte b s = closeFrame (s.pbuf.set 24 b) s := by
  rw [rxByte, parseByte_filling hp, fillFrame, dif_neg (Nat.not_lt.2 hc), closeFrame, getElem_set_last]
  cases isFooter b <;> rfl

/-- What SPOLL reports of the parser: `LFRAME`, `NEW` and `LVALID`. -/
def received (s : State) : Option Frame × Bool × Bool := (s.lframe, s.new, s.lvalid)

/-- Byte `b` completes a frame (R121). -/
def Completes (b : Byte) (s : State) : Prop := s.pstate = .filling ∧ 24 ≤ s.cnt.toNat ∧ isFooter b = true

theorem received_rxByte_of_completes {b : Byte} {s : State} (h : Completes b s) :
    received (rxByte b s) = (some (s.pbuf.set 24 b), true, true) := by
  obtain ⟨hp, hc, hfooter⟩ := h
  rw [rxByte_close_of_full b hp hc, closeFrame, getElem_set_last, if_pos hfooter, received]

theorem received_rxByte_of_not_completes {b : Byte} {s : State} (h : ¬ Completes b s) :
    received (rxByte b s) = received s := by
  cases hp : s.pstate with
  | seeking =>
    cases hstart : startsFrame b s with
    | true => rw [rxByte_start hstart]; rfl
    | false => rw [rxByte_discard hp hstart]; rfl
  | filling =>
    by_cases hc : s.cnt.toNat < 24
    · rw [rxByte_fill hc hp]; rfl
    · have hc := Nat.not_lt.1 hc
      rw [rxByte_close_of_full b hp hc, closeFrame, getElem_set_last, if_neg fun hfooter => h ⟨hp, hc, hfooter⟩]
      rfl

theorem deliveredFrames_cons_of_completes {b : Byte} {s : State} (h : Completes b s) (bs : List Byte) :
    deliveredFrames (b :: bs) s = s.pbuf.set 24 b :: deliveredFrames bs (rxByte b s) := if_pos h

theorem deliveredFrames_cons_of_not_completes {b : Byte} {s : State} (h : ¬ Completes b s) (bs : List Byte) :
    deliveredFrames (b :: bs) s = deliveredFrames bs (rxByte b s) := if_neg h

/-- Each completed frame takes the place of the one before it. -/
theorem received_rxAll (bs : List Byte) (s : State) :
    received (rxAll bs s) = (deliveredFrames bs s).foldl (fun _ F => (some F, true, true)) (received s) := by
  induction bs generalizing s with
  | nil => rfl
  | cons b bs ih =>
    have hrest : received (rxAll (b :: bs) s) = _ := ih (rxByte b s)
    by_cases h : Completes b s
    · rw [hrest, received_rxByte_of_completes h, deliveredFrames_cons_of_completes h, List.foldl_cons]
    · rw [hrest, received_rxByte_of_not_completes h, deliveredFrames_cons_of_not_completes h]

/-- A batch of received bytes writes the parser's registers only. -/
theorem rxAll_eq (bs : List Byte) (s : State) : rxAll bs s = withParserOf (rxAll bs s) s := by
  induction bs generalizing s with
  | nil => rfl
  | cons b bs ih => exact (ih (rxByte b s)).trans (congrArg (withParserOf (rxAll bs (rxByte b s))) (rxByte_eq b s) :)

/-- Settles O22: SPOLL reports what the last completed frame left. -/
theorem latestCompletedFrameWins : Obligations.LatestCompletedFrameWins := by
  intro s bytes
  have hreceived := received_rxAll bytes s
  refine ⟨rxAll bytes s, execAll_srx bytes s, fun F hlast => ?reported, fun hnone => ?kept⟩
  case reported =>
    obtain ⟨earlier, hframes⟩ := List.getLast?_eq_some_iff.1 hlast
    rw [hframes, List.foldl_concat, received, Prod.mk.injEq, Prod.mk.injEq] at hreceived
    obtain ⟨hframe, hnew, hvalid⟩ := hreceived
    have hrsp : (rxAll bytes s).rsp = s.rsp := (congrArg State.rsp (rxAll_eq bytes s) :)
    have hcfg : (rxAll bytes s).cfg = s.cfg := (congrArg State.cfg (rxAll_eq bytes s) :)
    refine ⟨_, exec_spoll_of_frame hvalid hframe, ?_, rfl⟩
    rw [hnew, hcfg, respond, hrsp]
  case kept =>
    rw [hnone, List.foldl_nil, received, received, Prod.mk.injEq, Prod.mk.injEq] at hreceived
    exact hreceived

/-! ### Reception and transmission (R121) -/

theorem emit_withParserOf (x : Byte) (u s : State) : emit x (withParserOf u s) = withParserOf u (emit x s) := by
  cases h : s.tovf with
  | true => rw [emit_dropped h, emit_dropped (s := withParserOf u s) h]
  | false =>
    by_cases hroom : s.tlen.toNat < s.cfg.lineMax
    · rw [emit_room h hroom, emit_room (s := withParserOf u s) h hroom]; rfl
    · have hfull := Nat.not_lt.1 hroom
      rw [emit_full h hfull, emit_full (s := withParserOf u s) h hfull]; rfl

theorem emitAll_withParserOf (bs : List Byte) (u s : State) :
    emitAll bs (withParserOf u s) = withParserOf u (emitAll bs s) := by
  induction bs generalizing s with
  | nil => rfl
  | cons b bs ih => exact (congrArg (emitAll bs) (emit_withParserOf b u s)).trans (ih (emit b s))

theorem push_withParserOf (x : Byte) (u s : State) : push x (withParserOf u s) = withParserOf u (push x s) :=
  emitAll_withParserOf (stuff x) u { s with chk := s.chk ^^^ x }

/-- The two cases of the commit (R186). -/
theorem commits_or_not (s : State) :
    (s.tovf = false ∧ 0 < s.tlen.toNat) ∨ (s.tovf = true ∨ s.tlen.toNat = 0) := by
  cases s.tovf with
  | true => exact .inr (.inl rfl)
  | false => exact (Nat.eq_zero_or_pos s.tlen.toNat).symm.imp (⟨rfl, ·⟩) .inr

theorem commit_withParserOf (u s : State) : commit (withParserOf u s) = withParserOf u (commit s) := by
  obtain ⟨hovf, hpos⟩ | hno := commits_or_not s
  · rw [commit_ok s hovf hpos, commit_ok (withParserOf u s) hovf hpos]; rfl
  · rw [commit_no s hno, commit_no (withParserOf u s) hno]

theorem buildTrainerFrame_withParserOf (w : Channels) (u s : State) :
    buildTrainerFrame w (withParserOf u s) = withParserOf u (buildTrainerFrame w s) := by
  rw [buildTrainer_eq, buildTrainer_eq]
  exact congrArg (fun e : State => { e with chk := 0x00 }) (emitAll_withParserOf (trainerFrame w) u (startUnit s))

/-- A command of the encoder, the engine or the trainer neither reads nor writes the parser's registers. -/
theorem exec_withParserOf {i : Instr} (hwf : i.wellFormed = true) (hrst : i ≠ .rst) (hstat : i ≠ .stat)
    (hspoll : i ≠ .spoll) (hsrx : ∀ c, i ≠ .srx c) (s : State) :
    ∃ t, exec i s = .next t ∧ ∀ u, exec i (withParserOf u s) = .next (withParserOf u t) := by
  cases i with
  | rst => exact absurd rfl hrst
  | stat => exact absurd rfl hstat
  | srx b => exact absurd rfl (hsrx b)
  | spoll => exact absurd rfl hspoll
  | senc w fl => exact ⟨_, exec_senc hwf, fun u => exec_senc (s := withParserOf u s) hwf⟩
  | sencp w fl => exact ⟨_, exec_sencp hwf, fun u => exec_sencp (s := withParserOf u s) hwf⟩
  | stx => exact ⟨_, exec_stx s, fun u => exec_stx (withParserOf u s)⟩
  | erst => exact ⟨_, exec_erst s, fun u => exec_erst (withParserOf u s)⟩
  | eraw b => exact ⟨_, exec_eraw b s, fun u => by rw [exec_eraw, emit_withParserOf]⟩
  | epush b => exact ⟨_, exec_epush b s, fun u => by rw [exec_epush, push_withParserOf]⟩
  | echk => exact ⟨_, exec_echk s, fun u => congrArg _ (push_withParserOf s.chk u s)⟩
  | ecmt => exact ⟨_, exec_ecmt s, fun u => by rw [exec_ecmt, commit_withParserOf]⟩
  | tenc w => exact ⟨_, exec_tenc w s, fun u => by rw [exec_tenc, buildTrainerFrame_withParserOf, commit_withParserOf]⟩
  | ttx => exact ⟨_, exec_ttx s, fun u => exec_ttx (withParserOf u s)⟩

/-- Settles O53: each of the two works on the other's result as on the state before it. -/
theorem receptionCommutesWithTransmission : Obligations.ReceptionCommutesWithTransmission := by
  intro b i s hwf hrst hstat hspoll hsrx
  obtain ⟨t, ht, hparser⟩ := exec_withParserOf hwf hrst hstat hspoll hsrx s
  have hkept : t = withParserOf s t := Host.Outcome.next.inj (ht.symm.trans (hparser s))
  have hsrxFirst : exec i (rxByte b s) = .next (withParserOf (rxByte b s) t) := by rw [rxByte_eq b s]; exact hparser _
  have hsrxLast : rxByte b t = withParserOf (rxByte b s) t := by rw [hkept]; exact rxByte_withParserOf b s t
  refine ⟨withParserOf (rxByte b s) t, ?_, ?_⟩
  · rw [execAll_cons_of_next (exec_srx b s), execAll_cons_of_next hsrxFirst]; rfl
  · rw [execAll_cons_of_next ht, execAll_cons_of_next (exec_srx b t), hsrxLast]; rfl

end Sys2Proof.Machine
end

section
/-! PROOFS. The bytes no rule reads (93_implementation_defined.md I5): two states that differ only in `PBUF` at or beyond `CNT`
and `TBUF` at or beyond `TLEN` run alike. -/

namespace Sys2Proof.Machine

/-! ### Two states that differ in unread bytes -/

/-- `s` with other contents of the two buffers that have unread bytes. -/
def withBuffers (P : Frame) (B : List Byte) (s : State) : State := { s with pbuf := P, tbuf := B }

/-- The frames agree below `n`. -/
def AgreeBelow (n : Nat) (P Q : Frame) : Prop := ∀ (i : Nat) (h : i < 25), i < n → P[i] = Q[i]

/-- The back buffers are equally long and agree below `n`. -/
def AgreeUpTo (n : Nat) (A B : List Byte) : Prop := A.length = B.length ∧ A.take n = B.take n

theorem sameButUnread_iff (s t : State) : s.SameButUnread t ↔
    ∃ P B, t = withBuffers P B s ∧ AgreeBelow s.cnt.toNat s.pbuf P ∧ AgreeUpTo s.tlen.toNat s.tbuf B := by
  constructor
  · rintro ⟨hrest, hpbuf, hsize, hread⟩
    exact ⟨t.pbuf, t.tbuf, hrest.symm, hpbuf, hsize, hread⟩
  · rintro ⟨P, B, rfl, hpbuf, hsize, hread⟩
    exact ⟨rfl, hpbuf, hsize, hread⟩

theorem sameButUnread_withBuffers {s : State} {P : Frame} {B : List Byte} (hP : AgreeBelow s.cnt.toNat s.pbuf P)
    (hB : AgreeUpTo s.tlen.toNat s.tbuf B) : s.SameButUnread (withBuffers P B s) :=
  (sameButUnread_iff _ _).2 ⟨P, B, rfl, hP, hB⟩

/-! ### Writing below the cursor -/

theorem AgreeBelow.zero (P Q : Frame) : AgreeBelow 0 P Q := fun i _ hi => absurd hi (Nat.not_lt_zero i)

theorem AgreeBelow.set {n : Nat} {P Q : Frame} (h : AgreeBelow n P Q) (hn : n < 25) (b : Byte) :
    AgreeBelow (n + 1) (P.set n b) (Q.set n b) := by
  intro i hi hin
  by_cases hni : n = i
  · subst hni; rw [Vector.getElem_set_self, Vector.getElem_set_self]
  · rw [Vector.getElem_set_ne hn hi hni, Vector.getElem_set_ne hn hi hni]
    exact h i hi (by omega)

/-- Frames that agree below 24 are equal once their last byte is written. -/
theorem AgreeBelow.set_last {n : Nat} {P Q : Frame} (h : AgreeBelow n P Q) (hn : 24 ≤ n) (b : Byte) :
    P.set 24 b = Q.set 24 b := by
  have h24 : AgreeBelow 24 P Q := fun i hi hin => h i hi (by omega)
  exact Vector.ext fun i hi => h24.set (by decide) b i hi hi

theorem AgreeUpTo.zero {n : Nat} {A B : List Byte} (h : AgreeUpTo n A B) : AgreeUpTo 0 A B := ⟨h.1, rfl⟩

theorem AgreeUpTo.mono {m n : Nat} {A B : List Byte} (h : AgreeUpTo n A B) (hmn : m ≤ n) : AgreeUpTo m A B := by
  obtain ⟨hsize, hread⟩ := h
  refine ⟨hsize, ?_⟩
  rw [← Nat.min_eq_left hmn, ← List.take_take, ← List.take_take, hread]

theorem AgreeUpTo.set {n : Nat} {A B : List Byte} (h : AgreeUpTo n A B) (x : Byte) :
    AgreeUpTo (n + 1) (A.set n x) (B.set n x) := by
  obtain ⟨hsize, hread⟩ := h
  have hwritten : (A.set n x)[n]? = (B.set n x)[n]? := by simp only [List.getElem?_set, if_true, hsize]
  refine ⟨by simp only [List.length_set, hsize], ?_⟩
  rw [List.take_add_one, List.take_add_one, List.take_set_of_le n.le_refl, List.take_set_of_le n.le_refl, hread,
    hwritten]

/-! ### The parser and the engine -/

theorem State.SameButUnread.rxByte {s t : State} (b : Byte) (h : s.SameButUnread t) :
    (rxByte b s).SameButUnread (rxByte b t) := by
  obtain ⟨P, B, rfl, hP, hB⟩ := (sameButUnread_iff s t).1 h
  cases hp : s.pstate with
  | seeking =>
    cases hstart : startsFrame b s with
    | true =>
      rw [rxByte_start hstart, rxByte_start (s := withBuffers P B s) hstart]
      exact sameButUnread_withBuffers ((AgreeBelow.zero s.pbuf P).set (by decide) b) hB
    | false =>
      rw [rxByte_discard hp hstart, rxByte_discard (s := withBuffers P B s) hp hstart]
      exact sameButUnread_withBuffers hP hB
  | filling =>
    by_cases hc : s.cnt.toNat < 24
    · rw [rxByte_fill hc hp, rxByte_fill (s := withBuffers P B s) hc hp]
      refine sameButUnread_withBuffers ?_ hB
      exact (cnt_succ hc).symm ▸ hP.set (by omega) b
    · have hc := Nat.not_lt.1 hc
      rw [rxByte_close_of_full b hp hc, rxByte_close_of_full b (s := withBuffers P B s) hp hc]
      have hframe : (withBuffers P B s).pbuf.set 24 b = s.pbuf.set 24 b := (hP.set_last hc b).symm
      rw [hframe, closeFrame, closeFrame]
      split
      · exact sameButUnread_withBuffers (AgreeBelow.zero _ _) hB
      · exact sameButUnread_withBuffers (AgreeBelow.zero _ _) hB

theorem State.SameButUnread.emit {s t : State} (x : Byte) (h : s.SameButUnread t) : (emit x s).SameButUnread (emit x t) := by
  obtain ⟨P, B, rfl, hP, hB⟩ := (sameButUnread_iff s t).1 h
  cases hovf : s.tovf with
  | true => rw [emit_dropped hovf, emit_dropped (s := withBuffers P B s) hovf]; exact h
  | false =>
    by_cases hroom : s.tlen.toNat < s.cfg.lineMax
    · have hcursor : (s.tlen + 1).toNat ≤ s.tlen.toNat + 1 := by
        rw [BitVec.toNat_add]; exact Nat.mod_le _ _
      rw [emit_room hovf hroom, emit_room (s := withBuffers P B s) hovf hroom]
      exact sameButUnread_withBuffers hP ((hB.set x).mono hcursor)
    · have hfull := Nat.not_lt.1 hroom
      rw [emit_full hovf hfull, emit_full (s := withBuffers P B s) hovf hfull]
      exact sameButUnread_withBuffers (s := dropUnit s) hP hB.zero

theorem State.SameButUnread.emitAll {s t : State} (bs : List Byte) (h : s.SameButUnread t) :
    (emitAll bs s).SameButUnread (emitAll bs t) := by
  induction bs generalizing s t with
  | nil => exact h
  | cons b bs ih => exact ih (h.emit b)

theorem State.SameButUnread.chk_eq {s t : State} (h : s.SameButUnread t) : t.chk = s.chk := (congrArg State.chk h.rest).symm

theorem State.SameButUnread.with_chk {s t : State} (c : Byte) (h : s.SameButUnread t) :
    { s with chk := c }.SameButUnread { t with chk := c } := by
  obtain ⟨P, B, rfl, hP, hB⟩ := (sameButUnread_iff s t).1 h
  exact sameButUnread_withBuffers (s := { s with chk := c }) hP hB

theorem State.SameButUnread.push {s t : State} (x : Byte) (h : s.SameButUnread t) : (push x s).SameButUnread (push x t) := by
  rw [Machine.push, Machine.push, h.chk_eq]
  exact (h.with_chk _).emitAll _

theorem State.SameButUnread.startUnit {s t : State} (h : s.SameButUnread t) : (startUnit s).SameButUnread (startUnit t) := by
  obtain ⟨P, B, rfl, hP, hB⟩ := (sameButUnread_iff s t).1 h
  exact sameButUnread_withBuffers (s := Machine.startUnit s) hP hB.zero

theorem State.SameButUnread.buildTrainerFrame {s t : State} (w : Channels) (h : s.SameButUnread t) :
    (buildTrainerFrame w s).SameButUnread (buildTrainerFrame w t) := by
  rw [buildTrainer_eq, buildTrainer_eq]
  exact (h.startUnit.emitAll _).with_chk _

/-- The commit copies only the bytes below `TLEN`. -/
theorem State.SameButUnread.commit {s t : State} (h : s.SameButUnread t) : (commit s).SameButUnread (commit t) := by
  obtain ⟨P, B, rfl, hP, hB⟩ := (sameButUnread_iff s t).1 h
  obtain ⟨hovf, hpos⟩ | hno := commits_or_not s
  · have hread : B.take s.tlen.toNat = s.tbuf.take s.tlen.toNat := hB.2.symm
    rw [commit_ok s hovf hpos, commit_ok (withBuffers P B s) hovf hpos]
    simp only [withBuffers, hread]
    exact sameButUnread_withBuffers (P := P) (B := B) hP hB
  · rw [commit_no s hno, commit_no (withBuffers P B s) hno]
    exact h

/-! ### Commands, steps and runs -/

theorem outcomesAgree_exec_of_wellFormed {i : Instr} (hwf : i.wellFormed = true) {s t : State} (h : s.SameButUnread t) :
    outcomesAgree (exec i s) (exec i t) := by
  obtain ⟨P, B, rfl, hP, hB⟩ := (sameButUnread_iff s t).1 h
  cases i with
  | rst => exact .refl (resetRegisters s)
  | stat => exact sameButUnread_withBuffers hP hB
  | srx b => exact h.rxByte b
  | spoll => exact sameButUnread_withBuffers hP hB
  | senc w fl => rw [exec_senc hwf, exec_senc hwf]; exact sameButUnread_withBuffers hP hB
  | sencp w fl => rw [exec_sencp hwf, exec_sencp hwf]; exact sameButUnread_withBuffers hP hB
  | stx => rw [exec_stx, exec_stx]; exact sameButUnread_withBuffers (s := sbusSend _ s) hP hB
  | erst => exact h.startUnit
  | eraw b => exact h.emit b
  | epush b => exact h.push b
  | echk => exact h.push s.chk
  | ecmt => exact h.commit
  | tenc w => exact (h.buildTrainerFrame w).commit
  | ttx => rw [exec_ttx, exec_ttx]; exact sameButUnread_withBuffers hP hB

theorem outcomesAgree_exec (i : Instr) {s t : State} (h : s.SameButUnread t) : outcomesAgree (exec i s) (exec i t) := by
  cases hwf : i.wellFormed with
  | true => exact outcomesAgree_exec_of_wellFormed hwf h
  | false =>
    have hpos : s.cmdPos = t.cmdPos := (congrArg State.cmdPos h.rest :)
    rw [exec_illFormed i s hwf, exec_illFormed i t hwf, hpos]
    rfl

/-- Outcomes that agree are two next states or one refusal; no fault exists (00_scope.md R12). -/
theorem outcomesAgree_cases {o p : Host.Outcome State Fault Refusal} (h : outcomesAgree o p) :
    (∃ s t, o = .next s ∧ p = .next t ∧ s.SameButUnread t) ∨ ∃ r, o = .refused r ∧ p = .refused r := by
  cases o with
  | next s =>
    cases p with
    | next t => exact .inl ⟨s, t, rfl, rfl, h⟩
    | fault r => cases r
    | refused r => exact False.elim h
  | fault r => cases r
  | refused r =>
    cases p with
    | next t => exact False.elim h
    | fault r => cases r
    | refused r' => exact .inr ⟨r, rfl, congrArg _ (Eq.symm h)⟩

theorem outcomesAgree_thenNext {f : State → State} (hf : ∀ {s t : State}, s.SameButUnread t → (f s).SameButUnread (f t))
    {o p : Host.Outcome State Fault Refusal} (h : outcomesAgree o p) : outcomesAgree (thenNext f o) (thenNext f p) := by
  obtain ⟨s, t, rfl, rfl, hst⟩ | ⟨r, rfl, rfl⟩ := outcomesAgree_cases h
  · exact hf hst
  · rfl

theorem State.SameButUnread.passTurn {s t : State} (h : s.SameButUnread t) : (passTurn s).SameButUnread (passTurn t) := by
  obtain ⟨P, B, rfl, hP, hB⟩ := (sameButUnread_iff s t).1 h
  exact sameButUnread_withBuffers (s := Machine.passTurn s) hP hB

theorem State.SameButUnread.passCommand (a : Agent) (i : Instr) {s t : State} (h : s.SameButUnread t) :
    (passCommand a i s).SameButUnread (passCommand a i t) := by
  obtain ⟨P, B, rfl, hP, hB⟩ := (sameButUnread_iff s t).1 h
  cases a with
  | host => exact sameButUnread_withBuffers (s := Machine.passCommand .host i s) hP hB
  | sbusSource => exact sameButUnread_withBuffers (s := Machine.passCommand .sbusSource i s) hP hB

theorem outcomesAgree_step {s t : State} (h : s.SameButUnread t) : outcomesAgree (step s) (step t) := by
  have hturn : turn t = turn s := (congrArg turn h.rest).symm
  have hnext : nextCommand t = nextCommand s := (congrArg nextCommand h.rest).symm
  rw [step, step, hnext, hturn]
  cases nextCommand s with
  | error r => rfl
  | ok command =>
    cases command with
    | none => exact h.passTurn
    | some i => exact outcomesAgree_thenNext (.passCommand (turn s) i) (outcomesAgree_exec i h)

/-- Settles O57: `SameButUnread` is kept by every command, and what selects the next command reads neither buffer. -/
theorem unreadBytesAreNeverObserved : Obligations.UnreadBytesAreNeverObserved := by
  intro k
  induction k with
  | zero => exact fun s t h => h
  | succ k ih =>
    intro s t h
    obtain ⟨s', t', hs, ht, h'⟩ | ⟨r, hs, ht⟩ := outcomesAgree_cases (outcomesAgree_step h)
    · rw [run_succ_of_next k hs, run_succ_of_next k ht]
      exact ih s' t' h'
    · rw [run_succ_of_refused k hs, run_succ_of_refused k ht]
      rfl

end Sys2Proof.Machine
end

section
/-! PROOFS. The packing of a frame by channels and by bytes (30_encoding.md R82): both views cut the one channel stream into
fields. -/

namespace Sys2Proof.Machine

/-! ### Fields of a bit stream -/

/-- The `n` bits of a stream from bit `p` on, bit `p` the lowest. -/
def bitsFrom (bit : Nat → Bool) (p n : Nat) : BitVec n := BitVec.ofFnLE fun j : Fin n => bit (p + j.val)

theorem getLsbD_bitsFrom (bit : Nat → Bool) (p : Nat) {n j : Nat} (hj : j < n) :
    (bitsFrom bit p n).getLsbD j = bit (p + j) := by
  simp [bitsFrom, hj]

/-- Two fields that meet are one field. -/
theorem bitsFrom_append (bit : Nat → Bool) {p q a b : Nat} (h : q = p + b) :
    bitsFrom bit q a ++ bitsFrom bit p b = bitsFrom bit p (a + b) := by
  apply BitVec.eq_of_getLsbD_eq
  intro j hj
  rw [getLsbD_bitsFrom bit p hj, BitVec.getLsbD_append]
  by_cases hlow : j < b
  · rw [if_pos hlow, getLsbD_bitsFrom bit p hlow]
  · rw [if_neg hlow, getLsbD_bitsFrom bit q (by omega), h]
    congr 1
    omega

/-- Part of a field. -/
theorem extractLsb'_bitsFrom (bit : Nat → Bool) (p : Nat) {n lo len : Nat} (h : lo + len ≤ n) :
    (bitsFrom bit p n).extractLsb' lo len = bitsFrom bit (p + lo) len := by
  apply BitVec.eq_of_getLsbD_eq
  intro j hj
  rw [BitVec.getLsbD_extractLsb', getLsbD_bitsFrom bit p (by omega), getLsbD_bitsFrom bit _ hj, Nat.add_assoc]
  simp [hj]

/-! ### The channel view (R82, 40_sbus_decoder.md R124) -/

theorem getD_sbusUnpack (F : Frame) {i : Nat} (hi : i < 16) :
    (sbusUnpack F).toList.getD i 0 = bitsFrom (streamBit F) (11 * i) 11 := by
  simp [sbusUnpack, hi, bitsFrom]

theorem getD_payload (F : Frame) {k : Nat} (hpos : 1 ≤ k) (hk : k ≤ 22) :
    F.toList.getD k 0 = bitsFrom (streamBit F) (8 * (k - 1)) 8 := by
  have hin : k < 25 := by omega
  have hbyte : F.toList.getD k 0 = F[k] := by simp [hin]
  rw [hbyte]
  apply BitVec.eq_of_getLsbD_eq
  intro m hm
  rw [getLsbD_payload F hpos hk hm, getLsbD_bitsFrom _ _ hm]

/-- Settles O24: a channel is eleven bits of the stream, which its slices of two or three bytes make up. -/
theorem channelViewOfThePackedBytes : Obligations.ChannelViewOfThePackedBytes := by
  intro F f ch
  have hch {i : Nat} (hi : i < 16) : ch i = bitsFrom (streamBit F) (11 * i) 11 := getD_sbusUnpack F hi
  have hf {k lo len : Nat} (hpos : 1 ≤ k) (hk : k ≤ 22) (hlen : lo + len ≤ 8) :
      f k lo len = bitsFrom (streamBit F) (8 * (k - 1) + lo) len :=
    (congrArg (·.extractLsb' lo len) (getD_payload F hpos hk)).trans (extractLsb'_bitsFrom _ _ hlen)
  simp (disch := decide) only [hch, hf, bitsFrom_append, and_self]

/-! ### The byte view (R80, R82, R83) -/

theorem getD_channel (raw : RawChannels) {i : Nat} (hi : i < 16) :
    raw.toList.getD i 0 = bitsFrom (packBit raw) (11 * i) 11 := by
  have hchannel : raw.toList.getD i 0 = raw[i] := by simp [hi]
  rw [hchannel]
  apply BitVec.eq_of_getLsbD_eq
  intro j hj
  rw [getLsbD_bitsFrom _ _ hj, packBit_channel raw hi hj]

theorem packByte_eq_bitsFrom (raw : RawChannels) (k : Nat) : packByte raw k = bitsFrom (packBit raw) (8 * (k - 1)) 8 := rfl

/-- A built frame byte by byte: header, 22 packed bytes, flags, footer. -/
theorem toList_sbusPack (raw : RawChannels) (fl : BitVec 4) :
    (sbusPack raw fl).toList =
      0x0F :: (List.range 22).map (fun k => packByte raw (k + 1)) ++ [fl.setWidth 8, 0x00] := by
  rw [sbusPack, Vector.toList_ofFn]
  rfl

/-- Settles O25: a payload byte is eight bits of the stream, which its slices of the channels make up. -/
theorem byteViewOfTheBuiltFrame : Obligations.ByteViewOfTheBuiltFrame := by
  intro raw fl c
  have hc {i lo len : Nat} (hi : i < 16) (hlen : lo + len ≤ 11) :
      c i lo len = bitsFrom (packBit raw) (11 * i + lo) len :=
    (congrArg (·.extractLsb' lo len) (getD_channel raw hi)).trans (extractLsb'_bitsFrom _ _ hlen)
  have hflags : 0#4 ++ fl = fl.setWidth 8 := (BitVec.setWidth_eq_append (by decide)).symm
  rw [toList_sbusPack]
  simp (disch := decide) only [hc, bitsFrom_append, hflags]
  rfl

end Sys2Proof.Machine
end
